-- ==== Sys2Proof/Word.lean ====
section
/-! DEFINITION. The word types of the machine (spec/00_scope.md R5, R6, R9). -/

namespace Sys2Proof

/-- A 64-bit register value (00_scope.md R5, XLEN = 64). -/
abbrev Word := BitVec 64

/-- One byte of instruction memory (20_memory.md R50). -/
abbrev Byte := BitVec 8

/-- A 32-bit instruction word (30_encoding.md R70). -/
abbrev InstrWord := BitVec 32

/-- The number of a GPR as an instruction field names it: 5 bits, GPR 0 to 31 (10_state.md R20). -/
abbrev RegNum := BitVec 5

end Sys2Proof
end

