-- ==== Sys2Proof/Config.lean ====
section
/-! DEFINITION. What an implementation fixes: the parameters of spec/00_scope.md R5, and the free bits that
40_svstep.md R111 leaves open. The values the model itself runs with, Config.recommended, stand in Sys2Proof/Decode.lean. -/

namespace Sys2Proof.Config

/-- Byte orders of instruction fetch (20_memory.md R53). -/
inductive Endian where
  /-- The byte at the lowest address is bits 24:31 of the word, its least significant byte. -/
  | little
  /-- The byte at the lowest address is bits 0:7 of the word, its most significant byte. -/
  | big
deriving DecidableEq, Repr

/-- The parameters of R5 that stay an argument of the decoder, the fetch, the instructions, the launch and reset: "a parameter marked
OPEN is an argument of the model" (R5, 70_reset_and_hazards.md R231). VL_LIMIT is kept one too (R138, conflict C2, D5, U2), and
STEP_LIMIT with it, since one sentence of the source gives both limits (R37). The other two that R5 marks OPEN are arguments in
other forms: SUBVL of the iterators (Machine/Iterate.lean), and the function REMAP_OFFSET, which has no body
(Machine/Remap.lean). -/
structure Parameters where
  /-- NGPR, the number of GPRs (10_state.md R20, D22) -/
  ngpr : Nat
  /-- PO_SVL, the primary opcode of both instructions (30_encoding.md R74, D1) -/
  poSvl : BitVec 6
  /-- XO_SETVL, the extended opcode of setvl (R74, D1) -/
  xoSetvl : BitVec 5
  /-- XO_SVSTEP, the extended opcode of svstep (R74, D1) -/
  xoSvstep : BitVec 5
  /-- SVSTATE_RESET, the value of SVSTATE after reset (10_state.md R44, D20) -/
  svstateReset : Word
  /-- INSN_ENDIAN, the byte order of instruction fetch (20_memory.md R53, D3) -/
  insnEndian : Endian
  /-- SPR_SVSTATE, the SPR number of SVSTATE (R5, D27) -/
  sprSvstate : Nat
  /-- VL_LIMIT, the largest legal maxvl and vl (R5, 41_setvl.md R138, D5) -/
  vlLimit : Nat
  /-- STEP_LIMIT, the largest legal srcstep and dststep (R5, 10_state.md R37) -/
  stepLimit : Nat
deriving DecidableEq, Repr

/-- GPR 0 to 31, the registers a 5-bit field names (10_state.md R20). -/
abbrev namedGprs : Nat := 32

/-- The parameters the spec allows: at least 32 GPRs; extended opcodes that tell the two instructions apart (DEDUCED from
the distinct rows of 30_encoding.md R74, log 1); a VL_LIMIT that the 7-bit field holds (R26), and a STEP_LIMIT that lets a
loop reach its last step, vl - 1 (DEDUCED from R28, log 8). -/
abbrev Parameters.legal (c : Parameters) : Prop :=
  namedGprs ≤ c.ngpr ∧ c.xoSetvl ≠ c.xoSvstep ∧ c.vlLimit ≤ 127 ∧ c.vlLimit ≤ c.stepLimit + 1

/-- A FREE VALUE: SPR_SVSTATE, for which the spec gives and recommends no number (R5, D27; log 31, safe). It has no
body on purpose. -/
opaque sprSvstate : Nat

/-- SUBVL of an unprefixed instruction (R38, R108, D15). DEDUCED, log 17. -/
def unprefixedSubvl : BitVec 2 := 0

/-- The first pc, a parameter of the launch (R44, R221). DESIGN CHOICE, log 5, unsafe. -/
def resetPc : Word := 0

/-- The value every GPR, CTR and SVSHAPE holds at reset; the spec gives none (R44). DESIGN CHOICE, log 3, unsafe. -/
def resetRegister : Word := 0

/-- A FREE VALUE: the n-th bit the machine draws where the spec says "any value" (R111, D13; log 16, safe). It has
no body on purpose: nothing can be proved about which bit it is. -/
opaque freeBit (n : Nat) : Bool

end Sys2Proof.Config
end

