-- ==== Sys2Proof/Syntax.lean ====
section
/-! DEFINITION. The instructions: one constructor per row of spec/opcode_table.json, operands as the decoded fields
(spec/30_encoding.md R71, R72, R84, R85). -/

namespace Sys2Proof

/-- An instruction. `svi` is the 7-bit field SVi as it stands in the word: for `setvl` and its pseudo-ops the wanted
length minus one (R76), for `svstep` the mode selector (R77). The record form (Rc = 1) of a row is the constructor
with the suffix Rc. -/
inductive Instr where
  /-- `setvl RT,RA,SVi,vf,vs,ms` (41_setvl.md R130). -/
  | setvl (rt ra : RegNum) (svi : BitVec 7) (ms vs vf : Bool)
  /-- `setvl. RT,RA,SVi,vf,vs,ms` (R130, R137). -/
  | setvlRc (rt ra : RegNum) (svi : BitVec 7) (ms vs vf : Bool)
  /-- `svstep RT,SVi,vf` (40_svstep.md R100). -/
  | svstep (rt : RegNum) (svi : BitVec 7) (vf : Bool)
  /-- `svstep. RT,SVi,vf` (R100, R111). -/
  | svstepRc (rt : RegNum) (svi : BitVec 7) (vf : Bool)
  /-- `setvli VL=n`, n = SVi + 1 (R84, R143). -/
  | setvli (svi : BitVec 7)
  /-- `setvli. VL=n` (R84, R143). -/
  | setvliRc (svi : BitVec 7)
  /-- `setmvli MVL=n`, n = SVi + 1 (R84, R144). -/
  | setmvli (svi : BitVec 7)
  /-- `setmvli. MVL=n` (R84, R144). -/
  | setmvliRc (svi : BitVec 7)
  /-- `getvl RT` (R85, R145). -/
  | getvl (rt : RegNum)
  /-- `getvl. RT` (R85, R145). -/
  | getvlRc (rt : RegNum)
deriving DecidableEq, Repr

end Sys2Proof
end

