-- ==== Sys2Proof/Decode.lean ====
section
/-! DEFINITION. Decoder and encoder (spec/30_encoding.md), in the spec's own MSB0 bit numbers (00_scope.md R6). -/

namespace Sys2Proof

/-- The MSB0 slice `x[a:b]` of 00_scope.md R6: bit 0 is the most significant bit of `x`. -/
def msb0 {n : Nat} (x : BitVec n) (a b : Nat) : BitVec (b + 1 - a) :=
  x.extractLsb' (n - 1 - b) (b + 1 - a)

/-- The MSB0 bit `x[a]` of 00_scope.md R6. -/
def msb0Bit {n : Nat} (x : BitVec n) (a : Nat) : Bool :=
  x.getLsbD (n - 1 - a)

/-- The parameters the model itself runs with: the values R5, R53 and R74 recommend. The opcode numbers are PRESUMED
(log 1, unsafe for claims about a concrete word); the byte order (log 2, unsafe for claims about bytes), NGPR (log 7, safe)
and SVSTATE_RESET (log 4, unsafe) are DESIGN CHOICE; the SPR number is free (log 31); VL_LIMIT is the reading of
conflict C2 (DEDUCED, log 8, safe but for a claim that a form traps), STEP_LIMIT the value R5 gives. -/
def Config.recommended : Config.Parameters where
  ngpr := 32
  poSvl := 22
  xoSetvl := 0b11011
  xoSvstep := 0b10011
  svstateReset := 0
  insnEndian := .little
  sprSvstate := Config.sprSvstate
  vlLimit := 64
  stepLimit := 63

/-- Why a word is no instruction of this spec (R78, R86). -/
inductive DecodeError where
  /-- Fewer than four bytes were given (R70). -/
  | truncated
  /-- The primary opcode is not PO_SVL: the word is outside this spec, a prefix among them (R86, R81). -/
  | notInScope (w : InstrWord)
  /-- PO_SVL with an XO that is neither setvl's nor svstep's (R86). -/
  | undefinedUnderPo (w : InstrWord)
  /-- svstep's PO and XO with a reserved "/" bit (11:15, 23 or 24) set (R78). -/
  | reservedBits (w : InstrWord)
deriving DecidableEq, Repr

/-- The decoding procedure of R86, for any opcode numbers: the SVL-Form fields of R71 and R72, from a 32-bit word. The pseudo-ops are never
its output (R86). -/
def decodeWord (c : Config.Parameters) (w : InstrWord) : Except DecodeError Instr :=
  let rt : RegNum := msb0 w 6 10
  let ra : RegNum := msb0 w 11 15
  let svi : BitVec 7 := msb0 w 16 22
  let xo : BitVec 5 := msb0 w 26 30
  if (msb0 w 0 5 : BitVec 6) ≠ c.poSvl then
    .error (.notInScope w)
  else if xo = c.xoSetvl then
    if msb0Bit w 31 then
      .ok (.setvlRc rt ra svi (msb0Bit w 23) (msb0Bit w 24) (msb0Bit w 25))
    else
      .ok (.setvl rt ra svi (msb0Bit w 23) (msb0Bit w 24) (msb0Bit w 25))
  else if xo = c.xoSvstep then
    if ra = 0 ∧ msb0Bit w 23 = false ∧ msb0Bit w 24 = false then
      if msb0Bit w 31 then .ok (.svstepRc rt svi (msb0Bit w 25)) else .ok (.svstep rt svi (msb0Bit w 25))
    else
      .error (.reservedBits w)
  else
    .error (.undefinedUnderPo w)

/-- The 32-bit word that four bytes at rising addresses make (20_memory.md R53). -/
def wordOfBytes : Config.Endian → Byte → Byte → Byte → Byte → InstrWord
  | .little, b0, b1, b2, b3 => b3 ++ b2 ++ b1 ++ b0
  | .big, b0, b1, b2, b3 => b0 ++ b1 ++ b2 ++ b3

/-- The four bytes of a 32-bit word at rising addresses (R53). -/
def bytesOfWord : Config.Endian → InstrWord → List Byte
  | .little, w => [msb0 w 24 31, msb0 w 16 23, msb0 w 8 15, msb0 w 0 7]
  | .big, w => [msb0 w 0 7, msb0 w 8 15, msb0 w 16 23, msb0 w 24 31]

/-- The decoder on memory's bytes: one instruction and the bytes after it (R70, R86). -/
def decode (c : Config.Parameters) : List Byte → Except DecodeError (Instr × List Byte)
  | b0 :: b1 :: b2 :: b3 :: rest =>
    match decodeWord c (wordOfBytes c.insnEndian b0 b1 b2 b3) with
    | .ok i => .ok (i, rest)
    | .error e => .error e
  | _ => .error .truncated

/-- The instruction an assembler name stands for (R84, R85): a pseudo-op's expansion, any other instruction itself. -/
def Instr.expand : Instr → Instr
  | .setvli svi => .setvl 0 0 svi false true false
  | .setvliRc svi => .setvlRc 0 0 svi false true false
  | .setmvli svi => .setvl 0 0 svi true false false
  | .setmvliRc svi => .setvlRc 0 0 svi true false false
  | .getvl rt => .setvl rt 0 0 false false false
  | .getvlRc rt => .setvlRc rt 0 0 false false false
  | i => i

/-- The word of the first SVL-Form layout, fields from bit 0 to bit 31 (R71). -/
def setvlWord (c : Config.Parameters) (rt ra : RegNum) (svi : BitVec 7) (ms vs vf rc : Bool) : InstrWord :=
  c.poSvl ++ rt ++ ra ++ svi ++ BitVec.ofBool ms ++ BitVec.ofBool vs ++ BitVec.ofBool vf ++ c.xoSetvl ++
    BitVec.ofBool rc

/-- The word of the second SVL-Form layout, the "/" bits zero (R72, R78). -/
def svstepWord (c : Config.Parameters) (rt : RegNum) (svi : BitVec 7) (vf rc : Bool) : InstrWord :=
  c.poSvl ++ rt ++ (0 : BitVec 5) ++ svi ++ (0 : BitVec 1) ++ (0 : BitVec 1) ++ BitVec.ofBool vf ++
    c.xoSvstep ++ BitVec.ofBool rc

/-- The word of an instruction (R71, R72; the pseudo-ops by R84 and R85, getvl's SVi encoded as 0). -/
def encodeWord (c : Config.Parameters) : Instr → InstrWord
  | .setvl rt ra svi ms vs vf => setvlWord c rt ra svi ms vs vf false
  | .setvlRc rt ra svi ms vs vf => setvlWord c rt ra svi ms vs vf true
  | .svstep rt svi vf => svstepWord c rt svi vf false
  | .svstepRc rt svi vf => svstepWord c rt svi vf true
  | .setvli svi => setvlWord c 0 0 svi false true false false
  | .setvliRc svi => setvlWord c 0 0 svi false true false true
  | .setmvli svi => setvlWord c 0 0 svi true false false false
  | .setmvliRc svi => setvlWord c 0 0 svi true false false true
  | .getvl rt => setvlWord c rt 0 0 false false false false
  | .getvlRc rt => setvlWord c rt 0 0 false false false true

/-- The bytes of an instruction as memory holds them (R52, R53). -/
def encode (c : Config.Parameters) (i : Instr) : List Byte :=
  bytesOfWord c.insnEndian (encodeWord c i)

/-- One row of the opcode map of R74: a word `w` is the row's when `w AND mask = pattern`. -/
structure OpcodeRow where
  mnemonic : String
  pattern : InstrWord
  mask : InstrWord
deriving DecidableEq, Repr

/-- Whether a word is a row's. -/
def OpcodeRow.covers (r : OpcodeRow) (w : InstrWord) : Bool :=
  (w &&& r.mask) == r.pattern

/-- The four instruction rows of R74: the fixed fields in the pattern, the reserved bits of R78 in the mask too. -/
def coreRows (c : Config.Parameters) : List OpcodeRow :=
  [⟨"setvl", setvlWord c 0 0 0 false false false false, 0xFC00003F⟩,
   ⟨"setvl.", setvlWord c 0 0 0 false false false true, 0xFC00003F⟩,
   ⟨"svstep", svstepWord c 0 0 false false, 0xFC1F01BF⟩,
   ⟨"svstep.", svstepWord c 0 0 false true, 0xFC1F01BF⟩]

/-- What the decoder reads from an instruction whose bits are `w`, laid out in memory's byte order, bits above `nbits`
zero (the host's question, one row of the opcode table at a time), with the recommended parameters. -/
def decodeTableWord (nbits w : Nat) : Option Instr :=
  match decode Config.recommended (bytesOfWord Config.recommended.insnEndian (BitVec.ofNat 32 (w % 2 ^ nbits))) with
  | .ok (i, _) => some i
  | .error _ => none

/-! The assembler's operands (R76, R82, R83). -/

/-- The SVi field of an assembler length: the length minus one, for lengths 1 to 128 (R76). -/
def lengthField (n : Nat) : Option (BitVec 7) :=
  if 1 ≤ n ∧ n ≤ 128 then some (BitVec.ofNat 7 (n - 1)) else none

/-- `setvl RT,RA,SVi,vf,vs,ms` or, with `rc`, `setvl.`: the operands in the order the assembler writes them (R82). -/
def asmSetvl (rc : Bool) (rt ra : RegNum) (n : Nat) (vf vs ms : Bool) : Option Instr :=
  (lengthField n).map fun svi => if rc then .setvlRc rt ra svi ms vs vf else .setvl rt ra svi ms vs vf

/-- `svstep RT,SVi,vf` or, with `rc`, `svstep.`: the operand SVi is the field itself (R83). -/
def asmSvstep (rc : Bool) (rt : RegNum) (svi : BitVec 7) (vf : Bool) : Instr :=
  if rc then .svstepRc rt svi vf else .svstep rt svi vf

/-- `setvli VL=n` or, with `rc`, `setvli.` (R84). -/
def asmSetvli (rc : Bool) (n : Nat) : Option Instr :=
  (lengthField n).map fun svi => if rc then .setvliRc svi else .setvli svi

/-- `setmvli MVL=n` or, with `rc`, `setmvli.` (R84). -/
def asmSetmvli (rc : Bool) (n : Nat) : Option Instr :=
  (lengthField n).map fun svi => if rc then .setmvliRc svi else .setmvli svi

end Sys2Proof
end

