-- ==== Sys2Proof/Machine/State.lean ====
section
/-! DEFINITION. The state of the machine: everything spec/10_state.md gives it, as plain data, and reset. -/

namespace Sys2Proof.Machine

/-- Condition Register field 0: LT, GT, EQ, SO from the most significant bit (10_state.md R22; the order is
PRESUMED, K3, log 30). -/
structure CrField where
  lt : Bool
  gt : Bool
  eq : Bool
  so : Bool
deriving DecidableEq, Repr

/-- The SVSTATE SPR, one entry per row of the table of 10_state.md R25, in that order. -/
structure Svstate where
  /-- bits 0:6, Max Vector Length (R26) -/
  maxvl : BitVec 7
  /-- bits 7:13, Vector Length (R27) -/
  vl : BitVec 7
  /-- bits 14:20, source element offset (R28) -/
  srcstep : BitVec 7
  /-- bits 21:27, destination element offset (R28) -/
  dststep : BitVec 7
  /-- bits 28:29, destination sub-vector offset (R29) -/
  dsubstep : BitVec 2
  /-- bits 30:31, source sub-vector offset (R29) -/
  ssubstep : BitVec 2
  /-- bits 32:33, SVSHAPE of RA (R30) -/
  mi0 : BitVec 2
  /-- bits 34:35, SVSHAPE of RB (R30) -/
  mi1 : BitVec 2
  /-- bits 36:37, SVSHAPE of RC (R30) -/
  mi2 : BitVec 2
  /-- bits 38:39, SVSHAPE of RT (R30) -/
  mo0 : BitVec 2
  /-- bits 40:41, SVSHAPE of EA/RS (R30) -/
  mo1 : BitVec 2
  /-- bits 42:46, REMAP enables, RA the least significant (R31) -/
  svme : BitVec 5
  /-- bits 47:52, reserved, kept zero (R32) -/
  rsvd : BitVec 6
  /-- bit 53, source loop order inverted (R33) -/
  pack : Bool
  /-- bit 54, destination loop order inverted (R33) -/
  unpack : Bool
  /-- bits 55:61, Horizontal Parallelism Hint (R34) -/
  hphint : BitVec 7
  /-- bit 62, REMAP persistence (R35) -/
  rmpst : Bool
  /-- bit 63, Vertical First mode (R36) -/
  vfirst : Bool
deriving DecidableEq, Repr

/-- Memory as a list of addresses and bytes, addresses strictly rising; an address not listed holds no value
(20_memory.md R50, 70_reset_and_hazards.md R220; log 6). -/
abbrev Memory := List Host.Cell

/-- The machine's state. -/
structure State where
  /-- GPR 0 to 31 (10_state.md R20) -/
  gpr : Vector Word Config.namedGprs
  /-- GPR 32 to NGPR - 1, as many as the implementation has: no field of an instruction names one (R20, D22; log 7) -/
  gprHigh : List Word
  /-- the program counter (R21) -/
  pc : Word
  /-- Condition Register field 0 (R22) -/
  cr0 : CrField
  /-- the Count Register (R23) -/
  ctr : Word
  /-- the SVSTATE SPR (R24, R25) -/
  svstate : Svstate
  /-- SVSHAPE0 to SVSHAPE3 (R39; the width is DEDUCED, log 24) -/
  svshape : Vector Word 4
  /-- instruction memory (20_memory.md R50) -/
  mem : Memory
  /-- the model's own: how many free bits have been drawn (log 16) -/
  draws : Nat
deriving DecidableEq, Repr

/-- The failed conditions of a step (40_svstep.md R109, 60_exceptions.md R193). -/
inductive Inconsistency where
  /-- vl = 0 -/
  | vlZero
  /-- srcstep beyond vl-1 -/
  | srcstepBeyond
  /-- dststep beyond vl-1 -/
  | dststepBeyond
  /-- ssubstep or dsubstep above subvl -/
  | substepAbove
deriving DecidableEq, Repr

/-- How a run stops with a fault. -/
inductive Fault where
  /-- The illegal instruction trap, the terminal outcome Trap(IllegalInstruction, CIA) of 60_exceptions.md R191, with
  nothing written. Raised by setvl above VL_LIMIT (R138), a reserved svstep selector (R114), reserved bits of a svstep
  word (R78) and a write of SVSTATE out of range (R37). Safe: nothing is claimed past the trap (log 19). -/
  | illegalInstruction (cia : Word)
  /-- SVStateInconsistent: a step on a state that the source's asserts exclude (R109, R194). Raised by svstep with
  SVi = 0 and vf = 1. Safe: nothing is claimed past it (log 18). -/
  | svStateInconsistent (why : Inconsistency)
  /-- No text at the pc: a byte to be fetched is not listed in memory. Raised by the fetch; it is where the run that
  70_reset_and_hazards.md R232 calls Completed ends. Safe: nothing is claimed of the hardware there (log 6). -/
  | endOfText (pc : Word)
deriving DecidableEq, Repr

/-- How a run stops with a refusal: no meaning is given. -/
inductive Refusal where
  /-- An instruction without a meaning yet. Raised by no arm: every instruction is modelled. Safe. -/
  | notModelled (mnemonic : String)
  /-- A word whose primary opcode is not PO_SVL: outside this spec (30_encoding.md R86, R81). Raised by the fetch.
  Safe. -/
  | notInScope (w : InstrWord)
  /-- A word under PO_SVL that is neither instruction (R86). Raised by the fetch. Safe. -/
  | undefinedUnderPo (w : InstrWord)
  /-- A pc that is no multiple of 4 (20_memory.md R54, D29). Raised by the fetch. Safe (log 21). -/
  | misalignedPc (pc : Word)
  /-- A fall-through past the top of the address space (10_state.md R21, D21). Raised by every instruction that ends
  at 2^64 - 4. Safe (log 21). -/
  | pcWrap (pc : Word)
  /-- A write of SVSTATE with a reserved bit set (R32, D26). Raised by State.writeSvstate only. Safe (log 25). -/
  | svstateReservedBits (v : Word)
deriving DecidableEq, Repr

/-- SVSTATE at reset: the fields of SVSTATE_RESET (R44, R220). A SVSTATE_RESET whose reserved bits 47:52 are not zero is
copied as given: R44 takes every field from the parameter, R32 "starts with them zero", and the model's choice between the
two is R44 (DESIGN CHOICE, log 37, unsafe for such a parameter; the recommended one has them zero). -/
def Svstate.resetWith (c : Config.Parameters) : Svstate where
  maxvl := c.svstateReset.extractLsb' 57 7
  vl := c.svstateReset.extractLsb' 50 7
  srcstep := c.svstateReset.extractLsb' 43 7
  dststep := c.svstateReset.extractLsb' 36 7
  dsubstep := c.svstateReset.extractLsb' 34 2
  ssubstep := c.svstateReset.extractLsb' 32 2
  mi0 := c.svstateReset.extractLsb' 30 2
  mi1 := c.svstateReset.extractLsb' 28 2
  mi2 := c.svstateReset.extractLsb' 26 2
  mo0 := c.svstateReset.extractLsb' 24 2
  mo1 := c.svstateReset.extractLsb' 22 2
  svme := c.svstateReset.extractLsb' 17 5
  rsvd := c.svstateReset.extractLsb' 11 6
  pack := c.svstateReset.getLsbD 10
  unpack := c.svstateReset.getLsbD 9
  hphint := c.svstateReset.extractLsb' 2 7
  rmpst := c.svstateReset.getLsbD 1
  vfirst := c.svstateReset.getLsbD 0

/-- The machine after reset, for any parameters (R44, 70_reset_and_hazards.md R220, R221). The spec gives no reset value;
each value here but SVSTATE's is the model's (logs 3, 5, 6, 16). -/
def State.resetWith (c : Config.Parameters) : State where
  gpr := Vector.replicate Config.namedGprs Config.resetRegister
  gprHigh := List.replicate (c.ngpr - Config.namedGprs) Config.resetRegister
  pc := Config.resetPc
  cr0 := ⟨false, false, false, false⟩
  ctr := Config.resetRegister
  svstate := Svstate.resetWith c
  svshape := Vector.replicate 4 Config.resetRegister
  mem := []
  draws := 0

/-- The machine after reset with the recommended parameters: SVSTATE all zero (DESIGN CHOICE, log 4, unsafe). -/
def State.reset : State :=
  State.resetWith Config.recommended

end Sys2Proof.Machine
end

