-- ==== Sys2Proof/Machine/Ops.lean ====
section
/-! DEFINITION. The named operations: memory, registers, the program counter, the trap, SVSTATE as a whole. -/

namespace Sys2Proof.Machine

/-- What an instruction answers. -/
abbrev Result := Host.Outcome State Fault Refusal

/-! ### Memory (20_memory.md R50, R52) -/

/-- Canonical form: addresses strictly rising, each inside the 64-bit address space. -/
abbrev Memory.wf (m : Memory) : Prop :=
  m.Pairwise (fun c d => c.1 < d.1) ∧ ∀ c ∈ m, c.1 < 2 ^ 64

/-- The byte at an address, none where nothing is listed (R220, log 6). -/
def Memory.read : Memory → Nat → Option Byte
  | [], _ => none
  | (a, b) :: m, x => if x = a then some b else Memory.read m x

/-- Memory with one byte written, in canonical form. -/
def Memory.write : Memory → Nat → Byte → Memory
  | [], x, v => [(x, v)]
  | (a, b) :: m, x, v =>
    if x < a then (x, v) :: (a, b) :: m
    else if x = a then (x, v) :: m
    else (a, b) :: Memory.write m x v

/-- The address of the k-th byte of the word at `pc`. -/
def byteAddress (pc : Word) (k : Nat) : Nat :=
  (pc + BitVec.ofNat 64 k).toNat

/-- The four bytes at `pc`, at rising addresses (R52). -/
def Memory.readBytes (m : Memory) (pc : Word) : Option (List Byte) := do
  let b0 ← m.read (byteAddress pc 0)
  let b1 ← m.read (byteAddress pc 1)
  let b2 ← m.read (byteAddress pc 2)
  let b3 ← m.read (byteAddress pc 3)
  pure [b0, b1, b2, b3]

/-- Memory with a list of bytes written from the k-th byte after `pc` on. -/
def Memory.writeBytes (m : Memory) (pc : Word) : Nat → List Byte → Memory
  | _, [] => m
  | k, b :: bs => Memory.writeBytes (m.write (byteAddress pc k) b) pc (k + 1) bs

/-! ### Registers (10_state.md R20 to R25) -/

/-- A field value names a register that exists (R20). -/
theorem regNum_lt (r : RegNum) : r.toNat < Config.namedGprs := r.isLt

/-- `GPR[r]` (00_scope.md R9); GPR 0 is an ordinary register (R20). -/
def State.readGpr (s : State) (r : RegNum) : Word :=
  s.gpr[r.toNat]'(regNum_lt r)

/-- `GPR[r] <- v` (00_scope.md R9). -/
def State.setGpr (s : State) (r : RegNum) (v : Word) : State :=
  { s with gpr := s.gpr.set r.toNat v (regNum_lt r) }

/-- `CR0 <- c` (R22). -/
def State.setCr0 (s : State) (c : CrField) : State :=
  { s with cr0 := c }

/-- SVSTATE replaced, no check: the instructions' own writes of its fields (R46). -/
def State.setSvstate (s : State) (v : Svstate) : State :=
  { s with svstate := v }

/-- `pc <- target` (00_scope.md R9). -/
def State.setPc (s : State) (target : Word) : State :=
  { s with pc := target }

/-- Memory replaced: the launch's own placing of text (70_reset_and_hazards.md R231). -/
def State.setMem (s : State) (m : Memory) : State :=
  { s with mem := m }

/-- The state after `n` free bits have been drawn (log 16). -/
def State.drawBits (s : State) (n : Nat) : State :=
  { s with draws := s.draws + n }

/-- `pc <- pc + 4` (R113, R142); past 2^64 - 4 there is no meaning (R21, D21; log 21). -/
def State.advance (s : State) : Result :=
  if s.pc.toNat + 4 < 2 ^ 64 then .next (s.setPc (s.pc + 4)) else .refused (.pcWrap s.pc)

/-! ### The trap (60_exceptions.md R190, R191) -/

/-- Taking the illegal instruction trap: the terminal outcome with the address of the instruction, nothing written
(R191). The spec gives no entry sequence, no handler and no return (R198). -/
def State.trapIllegal (s : State) : Result :=
  .fault (.illegalInstruction s.pc)

/-! ### SVSTATE as a 64-bit register (10_state.md R24, R25, R37) -/

/-- The 64-bit value of SVSTATE: its fields from bit 0 to bit 63 (R25). -/
def Svstate.toWord (v : Svstate) : Word :=
  v.maxvl ++ v.vl ++ v.srcstep ++ v.dststep ++ v.dsubstep ++ v.ssubstep ++ v.mi0 ++ v.mi1 ++ v.mi2 ++ v.mo0 ++ v.mo1 ++
    v.svme ++ v.rsvd ++ BitVec.ofBool v.pack ++ BitVec.ofBool v.unpack ++ v.hphint ++ BitVec.ofBool v.rmpst ++
    BitVec.ofBool v.vfirst

/-- The fields of a 64-bit value, at the MSB0 bits of the table of R25. -/
def Svstate.ofWord (w : Word) : Svstate where
  maxvl := msb0 w 0 6
  vl := msb0 w 7 13
  srcstep := msb0 w 14 20
  dststep := msb0 w 21 27
  dsubstep := msb0 w 28 29
  ssubstep := msb0 w 30 31
  mi0 := msb0 w 32 33
  mi1 := msb0 w 34 35
  mi2 := msb0 w 36 37
  mo0 := msb0 w 38 39
  mo1 := msb0 w 40 41
  svme := msb0 w 42 46
  rsvd := msb0 w 47 52
  pack := msb0Bit w 53
  unpack := msb0Bit w 54
  hphint := msb0 w 55 61
  rmpst := msb0Bit w 62
  vfirst := msb0Bit w 63

/-- A well-formed SVSTATE (R45), for any limits. -/
abbrev Svstate.wf (c : Config.Parameters) (v : Svstate) : Prop :=
  v.maxvl.toNat ≤ c.vlLimit ∧ v.vl.toNat ≤ v.maxvl.toNat ∧ v.srcstep.toNat ≤ c.stepLimit ∧
    v.dststep.toNat ≤ c.stepLimit ∧ v.rsvd = 0

/-- A loop-consistent SVSTATE for a given subvl (R45). -/
abbrev Svstate.loopConsistent (c : Config.Parameters) (subvl : BitVec 2) (v : Svstate) : Prop :=
  v.wf c ∧ 1 ≤ v.vl.toNat ∧ v.srcstep.toNat ≤ v.vl.toNat - 1 ∧ v.dststep.toNat ≤ v.vl.toNat - 1 ∧
    v.ssubstep.toNat ≤ subvl.toNat ∧ v.dsubstep.toNat ≤ subvl.toNat

/-- SVSTATE as software reads it, the 64-bit register (60_exceptions.md R204). -/
def State.readSvstate (s : State) : Word :=
  s.svstate.toWord

/-- A write of the whole of SVSTATE (R37, D26; log 25): trap first, on the value as given, then the reserved bits are
refused, then vl is truncated to maxvl. mtspr, which would do it, is out of scope (00_scope.md R4): no instruction
calls this. -/
def State.writeSvstate (c : Config.Parameters) (s : State) (w : Word) : Result :=
  let v := Svstate.ofWord w
  if c.vlLimit < v.maxvl.toNat ∨ c.vlLimit < v.vl.toNat ∨ c.stepLimit < v.srcstep.toNat ∨
      c.stepLimit < v.dststep.toNat then
    s.trapIllegal
  else if v.rsvd ≠ 0 then
    .refused (.svstateReservedBits w)
  else if v.maxvl.toNat < v.vl.toNat then
    .next (s.setSvstate { v with vl := v.maxvl })
  else
    .next (s.setSvstate v)

/-- A read of the SPR numbered `n`: SVSTATE under its number (R24, 20_memory.md R50, D27). The spec numbers no other SPR.
mfspr, which would do it, is out of scope (00_scope.md R4): no instruction calls this (log 31). -/
def State.readSpr (c : Config.Parameters) (n : Nat) (s : State) : Option Word :=
  if n = c.sprSvstate then some s.readSvstate else none

/-- A write of the SPR numbered `n`: SVSTATE under its number (R37, D27). The spec numbers no other SPR (log 31). -/
def State.writeSpr (c : Config.Parameters) (n : Nat) (w : Word) (s : State) : Option Result :=
  if n = c.sprSvstate then some (s.writeSvstate c w) else none

end Sys2Proof.Machine
end

