-- ==== Sys2Proof/Machine/Flags.lean ====
section
/-! DEFINITION. The CR0 computations of the record forms (spec/41_setvl.md R137, spec/40_svstep.md R111). -/

namespace Sys2Proof.Machine

/-- A CR field as its 4-bit number LT, GT, EQ, SO from the most significant bit (10_state.md R22). -/
def CrField.toBits (c : CrField) : BitVec 4 :=
  BitVec.ofBool c.lt ++ BitVec.ofBool c.gt ++ BitVec.ofBool c.eq ++ BitVec.ofBool c.so

/-- CR0 of `setvl.`: GT = VL non-zero, EQ = VL zero, SO = overflow, LT = 0 (R137; LT by D7, DEDUCED, log 10). -/
def setvlCr0 (vl : Nat) (overflow : Bool) : CrField where
  lt := false
  gt := decide (vl ≠ 0)
  eq := decide (vl = 0)
  so := overflow

/-- How many free bits CR0 of `svstep.` draws. -/
def svstepCr0Draws : Nat := 3

/-- CR0 of `svstep.`: EQ = loopend, the spec's own decision (R111, D13; DEDUCED, log 36); LT, GT and SO are free bits,
drawn from the n-th on (R111, D13; log 16). -/
def svstepCr0 (n : Nat) (loopend : Bool) : CrField where
  lt := Config.freeBit n
  gt := Config.freeBit (n + 1)
  eq := loopend
  so := Config.freeBit (n + 2)

end Sys2Proof.Machine
end

