-- ==== Sys2Proof/Machine/Operands.lean ====
section
/-! DEFINITION. The operand forms: where setvl takes MVL and VL from (spec/41_setvl.md), and what a svstep selector
selects (spec/30_encoding.md R77, R79). -/

namespace Sys2Proof.Machine

/-- VLimm: the immediate as an integer 1 to 128 (30_encoding.md R76, 41_setvl.md R139; DEDUCED, log 9). -/
def immediateLength (svi : BitVec 7) : Nat :=
  svi.toNat + 1

/-- MVL: the immediate with ms = 1, else the current maxvl (R131). -/
def selectMvl (svi : BitVec 7) (ms : Bool) (s : State) : Nat :=
  if ms then immediateLength svi else s.svstate.maxvl.toNat

/-- A register source: above 127 it becomes 127 with overflow, else its low seven bits are taken (R133). -/
def saturateLength (x : Word) : Nat × Bool :=
  if 127 < x.toNat then (127, true) else (x.toNat, false)

/-- The requested VL and whether its source overflowed (R132). -/
def requestLength (rt ra : RegNum) (svi : BitVec 7) (vs : Bool) (s : State) : Nat × Bool :=
  if vs = false then (s.svstate.vl.toNat, false)
  else if ra ≠ 0 then saturateLength (s.readGpr ra)
  else if rt = 0 then (immediateLength svi, false)
  else saturateLength s.ctr

/-- "limit VL to within MVL" (R133). -/
def limitLength (mvl : Nat) (r : Nat × Bool) : Nat × Bool :=
  if mvl < r.1 then (mvl, true) else r

/-- What the 7-bit selector of svstep selects. -/
inductive StepMode where
  /-- SVi = 0: step, or nothing (40_svstep.md R105). -/
  | step
  /-- SVi = 1 to 4: the REMAP offset of SVSHAPEn, n = SVi - 1 (R104). -/
  | remap (shape : BitVec 2)
  /-- SVi = 5 (R103). -/
  | srcstep
  /-- SVi = 6 (R103). -/
  | dststep
  /-- SVi = 7 (R103). -/
  | ssubstep
  /-- SVi = 8 (R103). -/
  | dsubstep
  /-- SVi = 12 to 15: store SVi[5] and SVi[6] (R101). -/
  | setPack (pack unpack : Bool)
  /-- Every other value (R79, R114). -/
  | reserved
deriving DecidableEq, Repr

/-- The selector's classes (R77, R79). `SVi[5]` and `SVi[6]` are MSB0 bits of the field (00_scope.md R6). -/
def stepMode (svi : BitVec 7) : StepMode :=
  if svi.toNat = 0 then .step
  else if svi.toNat ≤ 4 then .remap (BitVec.ofNat 2 (svi.toNat - 1))
  else if svi.toNat = 5 then .srcstep
  else if svi.toNat = 6 then .dststep
  else if svi.toNat = 7 then .ssubstep
  else if svi.toNat = 8 then .dsubstep
  else if 12 ≤ svi.toNat ∧ svi.toNat ≤ 15 then .setPack (msb0Bit svi 5) (msb0Bit svi 6)
  else .reserved

end Sys2Proof.Machine
end

