-- ==== Sys2Proof/Machine/Setvl.lean ====
section
/-! DEFINITION. setvl, setvl. and their pseudo-ops (spec/41_setvl.md). -/

namespace Sys2Proof.Machine

/-- The trap condition: an MVL above VL_LIMIT, an argument of the model (R138, D5, U2; log 8). -/
def setvlTraps (c : Config.Parameters) (svi : BitVec 7) (ms : Bool) : Bool :=
  ms && decide (c.vlLimit < immediateLength svi)

/-- The final VL and the overflow flag (R130, R133). -/
def setvlLength (rt ra : RegNum) (svi : BitVec 7) (ms vs : Bool) (s : State) : Nat × Bool :=
  limitLength (selectMvl svi ms s) (requestLength rt ra svi vs s)

/-- The writes of SVSTATE: maxvl and vl always (R134), vfirst and RMpst with ms = 1 (R136). -/
def setvlSvstate (ms vf : Bool) (mvl vl : Nat) (v : Svstate) : Svstate :=
  { v with
    maxvl := BitVec.ofNat 7 mvl
    vl := BitVec.ofNat 7 vl
    vfirst := if ms then vf else v.vfirst
    rmpst := if ms then false else v.rmpst }

/-- The state after the writes of R130, the pc not yet moved. RT gets the final VL unless its field is 0 (R135); CR0 is
written with Rc = 1 only (R137). Every source is read from `s`, before any write. -/
def setvlState (rc : Bool) (rt ra : RegNum) (svi : BitVec 7) (ms vs vf : Bool) (s : State) : State :=
  let length := setvlLength rt ra svi ms vs s
  let s₁ := s.setSvstate (setvlSvstate ms vf (selectMvl svi ms s) length.1 s.svstate)
  let s₂ := if rt = 0 then s₁ else s₁.setGpr rt (BitVec.ofNat 64 length.1)
  if rc then s₂.setCr0 (setvlCr0 length.1 length.2) else s₂

/-- `setvl` (rc = false) and `setvl.` (rc = true), R130: `rt` and `ra` are field values. -/
def runSetvl (c : Config.Parameters) (rc : Bool) (rt ra : RegNum) (svi : BitVec 7) (ms vs vf : Bool) (s : State) : Result :=
  if setvlTraps c svi ms then s.trapIllegal else (setvlState rc rt ra svi ms vs vf s).advance

/-- `setvl RT,RA,SVi,vf,vs,ms` (R130). -/
def execSetvl (rt ra : RegNum) (svi : BitVec 7) (ms vs vf : Bool) (s : State) : Result :=
  runSetvl Config.recommended false rt ra svi ms vs vf s

/-- `setvl. RT,RA,SVi,vf,vs,ms` (R130, R137). -/
def execSetvlRc (rt ra : RegNum) (svi : BitVec 7) (ms vs vf : Bool) (s : State) : Result :=
  runSetvl Config.recommended true rt ra svi ms vs vf s

/-- `setvli VL=n` is `setvl 0,0,n,0,1,0` (R143). -/
def execSetvli (svi : BitVec 7) (s : State) : Result :=
  runSetvl Config.recommended false 0 0 svi false true false s

/-- `setvli. VL=n` is `setvl. 0,0,n,0,1,0` (R143). -/
def execSetvliRc (svi : BitVec 7) (s : State) : Result :=
  runSetvl Config.recommended true 0 0 svi false true false s

/-- `setmvli MVL=n` is `setvl 0,0,n,0,0,1` (R144). -/
def execSetmvli (svi : BitVec 7) (s : State) : Result :=
  runSetvl Config.recommended false 0 0 svi true false false s

/-- `setmvli. MVL=n` is `setvl. 0,0,n,0,0,1` (R144). -/
def execSetmvliRc (svi : BitVec 7) (s : State) : Result :=
  runSetvl Config.recommended true 0 0 svi true false false s

/-- `getvl RT` is `setvl RT,0,SVi,0,0,0` with the SVi field 0 (R145, 30_encoding.md R85). -/
def execGetvl (rt : RegNum) (s : State) : Result :=
  runSetvl Config.recommended false rt 0 0 false false false s

/-- `getvl. RT` is `setvl. RT,0,SVi,0,0,0` with the SVi field 0 (R145, 30_encoding.md R85). -/
def execGetvlRc (rt : RegNum) (s : State) : Result :=
  runSetvl Config.recommended true rt 0 0 false false false s

end Sys2Proof.Machine
end

