-- ==== Sys2Proof/Machine/Iterate.lean ====
section
/-! DEFINITION. The iterators src_iterate and dest_iterate, at_loopend, and the states on which a step is defined
(spec/40_svstep.md R106 to R110). They take subvl, the zeroing flag and the predicate mask as inputs (R108). -/

namespace Sys2Proof.Machine

/-- What the prefix gives an iterator (R108): the zeroing flag (sz or dz) and the mask, bit n for element n. -/
structure Predicate where
  zeroing : Bool
  mask : Nat → Bool

/-- An unprefixed instruction: no zeroing, every mask bit set (R108, D14; DEDUCED, log 17). -/
def Predicate.none : Predicate where
  zeroing := false
  mask := fun _ => true

/-- The skip loop shared by the four branches of R106 and R107. `left` is `vl - 1 - step`, the turns the loop can still
take. It answers the new step, and whether the end was reached, in which case the step is 0. A turn stops on zeroing or
on an unmasked element (the polarity of R106, D30; log 27). -/
def skipLoop (p : Predicate) : (left step : Nat) → Nat × Bool
  | 0, _ => (0, true)
  | left + 1, step =>
    if p.zeroing || p.mask (step + 1) then (step + 1, false) else skipLoop p left (step + 1)

/-- Where one side of the loop stands after a step, and its `loopend`. -/
structure Position where
  step : BitVec 7
  sub : BitVec 2
  loopend : Bool
deriving DecidableEq, Repr

/-- One side of a step: R106 with `step`, `sub`, `inverted` for srcstep, ssubstep, pack, and R107 with dststep,
dsubstep, unpack. The asserts are checked before it is called (R109, `Svstate.inconsistency`). -/
def iterateSide (subvl : BitVec 2) (p : Predicate) (vl : BitVec 7) (inverted : Bool) (step : BitVec 7)
    (sub : BitVec 2) : Position :=
  let moved := skipLoop p (vl.toNat - 1 - step.toNat) step.toNat
  if inverted then
    if moved.2 then
      if sub = subvl then ⟨0, sub, true⟩ else ⟨0, sub + 1, false⟩
    else
      ⟨BitVec.ofNat 7 moved.1, sub, false⟩
  else if sub = subvl then
    ⟨BitVec.ofNat 7 moved.1, 0, moved.2⟩
  else
    ⟨step, sub + 1, false⟩

/-- src_iterate (R106). -/
def srcIterate (subvl : BitVec 2) (p : Predicate) (v : Svstate) : Position :=
  iterateSide subvl p v.vl v.pack v.srcstep v.ssubstep

/-- dest_iterate (R107). -/
def destIterate (subvl : BitVec 2) (p : Predicate) (v : Svstate) : Position :=
  iterateSide subvl p v.vl v.unpack v.dststep v.dsubstep

/-- The first condition of R109 that a state fails, if any: the asserts of R106 and R107 and the substep bound. The
order in which they are looked at is a DESIGN CHOICE (log 18). -/
def Svstate.inconsistency (subvl : BitVec 2) (v : Svstate) : Option Inconsistency :=
  if v.vl.toNat = 0 then some .vlZero
  else if v.vl.toNat - 1 < v.srcstep.toNat then some .srcstepBeyond
  else if v.vl.toNat - 1 < v.dststep.toNat then some .dststepBeyond
  else if subvl.toNat < v.ssubstep.toNat ∨ subvl.toNat < v.dsubstep.toNat then some .substepAbove
  else none

/-- A step of both sides: src_iterate, then dest_iterate (R102), on a state that R109 allows. It answers the new
SVSTATE and the OR of the two loopend flags. -/
def Svstate.next (subvl : BitVec 2) (src dst : Predicate) (v : Svstate) : Svstate × Bool :=
  let a := srcIterate subvl src v
  let b := destIterate subvl dst v
  ({ v with srcstep := a.step, ssubstep := a.sub, dststep := b.step, dsubstep := b.sub }, a.loopend || b.loopend)

/-- at_loopend (R110): the state stands on the last element; false when vl = 0. -/
def Svstate.atLoopend (subvl : BitVec 2) (v : Svstate) : Bool :=
  decide (v.srcstep.toNat + 1 = v.vl.toNat ∧ v.ssubstep = subvl) ||
    decide (v.dststep.toNat + 1 = v.vl.toNat ∧ v.dsubstep = subvl)

end Sys2Proof.Machine
end

