-- ==== Sys2Proof/Machine/Remap.lean ====
section
/-! DEFINITION. REMAP as the two instructions meet it: the external function REMAP_OFFSET (spec/40_svstep.md R104). -/

namespace Sys2Proof

/-- REMAP_OFFSET(n): "REMAP SVSHAPEn current offset", an external function of the whole state, 7 bits (R104, D25). The
spec defines neither the SVSHAPE registers nor the mapping: a FREE VALUE without a body, so that a claim holds for
every schedule (log 24, safe). -/
opaque Config.remapOffset (shape : BitVec 2) (s : Machine.State) : BitVec 7

end Sys2Proof
end

