-- ==== Sys2Proof/Machine/Svstep.lean ====
section
/-! DEFINITION. svstep and svstep. (spec/40_svstep.md). -/

namespace Sys2Proof.Machine

/-- What svstep computes before it writes: the 7-bit value for RT, loopend, and the new SVSTATE (R100, R102). -/
structure StepEffect where
  value : BitVec 7
  loopend : Bool
  svstate : Svstate
deriving DecidableEq, Repr

/-- An enquiry: a value, at_loopend of the unchanged state, no change (R102, R103; that CR0.EQ then reports at_loopend is
the spec's own decision, R111, D13, log 36). -/
def enquire (value : BitVec 7) (v : Svstate) : StepEffect where
  value := value
  loopend := v.atLoopend Config.unprefixedSubvl
  svstate := v

/-- Pack/unpack mode: the two bits stored, and returned as pack * 2 + unpack (R101). -/
def storePack (pack unpack : Bool) (v : Svstate) : StepEffect :=
  enquire ((0 : BitVec 5) ++ BitVec.ofBool pack ++ BitVec.ofBool unpack) { v with pack := pack, unpack := unpack }

/-- The explicit step of the unprefixed instruction (R105 to R109): the value is 0. It moves by one element whatever
hphint is: "How `svstep` then advances (by one, or by the group) is not said" (42_vector_context.md R168, N31, U26), and
by one is the model's choice, from the iterators, which do not read hphint (DESIGN CHOICE, log 35, unsafe for a non-zero
hphint). -/
def takeStep (v : Svstate) : Except Fault StepEffect :=
  match v.inconsistency Config.unprefixedSubvl with
  | some why => .error (.svStateInconsistent why)
  | none =>
    let r := v.next Config.unprefixedSubvl Predicate.none Predicate.none
    .ok ⟨0, r.2, r.1⟩

/-- The effect of svstep by its selector (R100, R102). `vf` matters for SVi = 0 only (R101, R103, R105; DEDUCED,
logs 11, 12, 14). -/
def stepEffect (svi : BitVec 7) (vf : Bool) (s : State) : Except Fault StepEffect :=
  match stepMode svi with
  | .reserved => .error (.illegalInstruction s.pc)
  | .setPack pack unpack => .ok (storePack pack unpack s.svstate)
  | .remap shape => .ok (enquire (Config.remapOffset shape s) s.svstate)
  | .srcstep => .ok (enquire s.svstate.srcstep s.svstate)
  | .dststep => .ok (enquire s.svstate.dststep s.svstate)
  | .ssubstep => .ok (enquire (s.svstate.ssubstep.setWidth 7) s.svstate)
  | .dsubstep => .ok (enquire (s.svstate.dsubstep.setWidth 7) s.svstate)
  | .step => if vf then takeStep s.svstate else .ok (enquire 0 s.svstate)

/-- The state after the writes of R100, the pc not yet moved. RT is written always, RT = 0 too (R112; DEDUCED,
log 13); CR0 with Rc = 1 only (R111). -/
def stepState (rc : Bool) (rt : RegNum) (e : StepEffect) (s : State) : State :=
  let s₁ := (s.setSvstate e.svstate).setGpr rt (e.value.setWidth 64)
  if rc then (s₁.setCr0 (svstepCr0 s.draws e.loopend)).drawBits svstepCr0Draws else s₁

/-- `svstep` (rc = false) and `svstep.` (rc = true), R100. -/
def runSvstep (rc : Bool) (rt : RegNum) (svi : BitVec 7) (vf : Bool) (s : State) : Result :=
  match stepEffect svi vf s with
  | .error fault => .fault fault
  | .ok e => (stepState rc rt e s).advance

/-- `svstep RT,SVi,vf` (R100). -/
def execSvstep (rt : RegNum) (svi : BitVec 7) (vf : Bool) (s : State) : Result :=
  runSvstep false rt svi vf s

/-- `svstep. RT,SVi,vf` (R100, R111). -/
def execSvstepRc (rt : RegNum) (svi : BitVec 7) (vf : Bool) (s : State) : Result :=
  runSvstep true rt svi vf s

end Sys2Proof.Machine
end

