-- ==== Sys2Proof/Machine/Dispatch.lean ====
section
/-! DEFINITION. One arm per instruction, each one direct call of its meaning. -/

namespace Sys2Proof.Machine

/-- What an instruction does. -/
def exec (i : Instr) (s : State) : Host.Outcome State Fault Refusal :=
  match i with
  | .setvl rt ra svi ms vs vf => Sys2Proof.Machine.execSetvl rt ra svi ms vs vf s
  | .setvlRc rt ra svi ms vs vf => Sys2Proof.Machine.execSetvlRc rt ra svi ms vs vf s
  | .svstep rt svi vf => Sys2Proof.Machine.execSvstep rt svi vf s
  | .svstepRc rt svi vf => Sys2Proof.Machine.execSvstepRc rt svi vf s
  | .setvli svi => Sys2Proof.Machine.execSetvli svi s
  | .setvliRc svi => Sys2Proof.Machine.execSetvliRc svi s
  | .setmvli svi => Sys2Proof.Machine.execSetmvli svi s
  | .setmvliRc svi => Sys2Proof.Machine.execSetmvliRc svi s
  | .getvl rt => Sys2Proof.Machine.execGetvl rt s
  | .getvlRc rt => Sys2Proof.Machine.execGetvlRc rt s

end Sys2Proof.Machine
end

