-- ==== Sys2Proof/Machine/ExecWith.lean ====
section
/-! DEFINITION. The instructions of a machine with any parameters (spec/00_scope.md R5). VL_LIMIT, the only one an
instruction's effect depends on, is read by the trap of setvl alone (spec/41_setvl.md R138). -/

namespace Sys2Proof.Machine

/-- What an instruction does on a machine with the parameters `c`; exec (Machine/Dispatch.lean) is this with
Config.recommended (exec_eq_execWith). -/
def execWith (c : Config.Parameters) (i : Instr) (s : State) : Result :=
  match i with
  | .setvl rt ra svi ms vs vf => runSetvl c false rt ra svi ms vs vf s
  | .setvlRc rt ra svi ms vs vf => runSetvl c true rt ra svi ms vs vf s
  | .svstep rt svi vf => execSvstep rt svi vf s
  | .svstepRc rt svi vf => execSvstepRc rt svi vf s
  | .setvli svi => runSetvl c false 0 0 svi false true false s
  | .setvliRc svi => runSetvl c true 0 0 svi false true false s
  | .setmvli svi => runSetvl c false 0 0 svi true false false s
  | .setmvliRc svi => runSetvl c true 0 0 svi true false false s
  | .getvl rt => runSetvl c false rt 0 0 false false false s
  | .getvlRc rt => runSetvl c true rt 0 0 false false false s

end Sys2Proof.Machine
end

