-- ==== Sys2Proof/Machine/Fetch.lean ====
section
/-! DEFINITION. Fetching an instruction, and placing text in memory (spec/20_memory.md R52 to R54, R61;
70_reset_and_hazards.md R231). -/

namespace Sys2Proof.Machine

/-- What a fetch gives: an instruction, or why the machine stops. -/
inductive Fetched where
  | instr (i : Instr)
  | fault (f : Fault)
  | refused (r : Refusal)
deriving DecidableEq, Repr

/-- A word that does not decode: reserved bits are the trap (30_encoding.md R78, 60_exceptions.md R190 event 3), any
other word has no meaning here (R86). -/
def stopOfDecodeError (pc : Word) : DecodeError → Fetched
  | .truncated => .fault (.endOfText pc)
  | .notInScope w => .refused (.notInScope w)
  | .undefinedUnderPo w => .refused (.undefinedUnderPo w)
  | .reservedBits _ => .fault (.illegalInstruction pc)

/-- A step on what was fetched: an instruction is executed by `run`, a stop is the step's stop. -/
def Fetched.run (run : Instr → State → Result) (s : State) : Fetched → Result
  | .instr i => run i s
  | .fault f => .fault f
  | .refused r => .refused r

/-- Fetch and decode the instruction at the pc: aligned to 4 (20_memory.md R54), four bytes (R52), decoded by
30_encoding.md R86. -/
def fetch (c : Config.Parameters) (s : State) : Fetched :=
  if s.pc.toNat % 4 ≠ 0 then .refused (.misalignedPc s.pc)
  else
    match s.mem.readBytes s.pc with
    | none => .fault (.endOfText s.pc)
    | some bytes =>
      match decode c bytes with
      | .ok (i, _) => .instr i
      | .error e => stopOfDecodeError s.pc e

/-- The bytes of a text, word after word. -/
def textBytes (c : Config.Parameters) (text : List InstrWord) : List Byte :=
  text.flatMap (bytesOfWord c.insnEndian)

/-- A text laid into memory from `base` on (R231); the premises on `base` are Launch.premises (Machine/Launch.lean). -/
def State.loadText (c : Config.Parameters) (s : State) (base : Word) (text : List InstrWord) : State :=
  s.setMem (s.mem.writeBytes base 0 (textBytes c text))

end Sys2Proof.Machine
end

