-- ==== Sys2Proof/Machine/Launch.lean ====
section
/-! DEFINITION. The launch and the completed end of a run (spec/70_reset_and_hazards.md R231, R232). -/

namespace Sys2Proof.Machine

/-- What a launch supplies: the text and its load address (R231, premise 1), and the word of the text at which the run
starts, 0 for the load address itself (premise 2; the offset is counted in words, DEDUCED from 20_memory.md R54, log 34). -/
structure Launch where
  base : Word
  text : List InstrWord
  entry : Nat
deriving DecidableEq, Repr

/-- The address just past the text, not reduced to 64 bits (R231, R232). -/
def Launch.textEnd (l : Launch) : Nat :=
  l.base.toNat + 4 * l.text.length

/-- The premises of a launch on a machine whose registers are those of `s` (R231). 1: the load address is a multiple of 4
and the text ends by 2^64. 2: the entry is the load address or stands in the text. 4: SVSTATE is well formed. Premise 3 is
the argument Config.Parameters, premise 5 the registers of `s`; for premise 6 the state has nothing to hold. -/
abbrev Launch.premises (c : Config.Parameters) (l : Launch) (s : State) : Prop :=
  l.base.toNat % 4 = 0 ∧ l.textEnd ≤ 2 ^ 64 ∧ (l.entry = 0 ∨ l.entry < l.text.length) ∧ s.svstate.wf c

/-- The launched machine: the text and nothing else in memory (R220), the pc at the entry (R231, premises 1 and 2), every
other register as in `s` (premises 4 and 5). -/
def State.launch (c : Config.Parameters) (l : Launch) (s : State) : State :=
  ((s.setMem []).loadText c l.base l.text).setPc (l.base + BitVec.ofNat 64 (4 * l.entry))

/-- The end of a run that R232 calls Completed: the pc is one word past the last instruction. -/
abbrev Launch.completed (l : Launch) (s : State) : Prop :=
  s.pc.toNat = l.textEnd

end Sys2Proof.Machine
end

