-- ==== Sys2Proof/Machine/Step.lean ====
section
/-! DEFINITION. One step of the machine: fetch, decode, execute (spec/70_reset_and_hazards.md R229, R230). -/

namespace Sys2Proof.Machine

/-- One step of a machine with the parameters `c` (00_scope.md R5). -/
def stepWith (c : Config.Parameters) (s : State) : Host.Outcome State Fault Refusal :=
  (fetch c s).run (execWith c) s

/-- One step of the machine, the one with the recommended parameters. -/
def step (s : State) : Host.Outcome State Fault Refusal :=
  (fetch Config.recommended s).run exec s

/-- The state with one instruction placed where the next step fetches it: a launch of a one-word text at the pc
(R231; log 5). -/
def State.withFetchWord (s : State) (nbits w : Nat) : State :=
  s.loadText Config.recommended s.pc [BitVec.ofNat 32 (w % 2 ^ nbits)]

end Sys2Proof.Machine
end

