-- ==== Sys2Proof/Machine/Context.lean ====
section
/-! DEFINITION. What the spec says SVSTATE's fields mean to the prefixed instructions (spec/42_vector_context.md,
10_state.md R30, R31, R34). The prefix is out of scope (00_scope.md R4): no instruction of this model runs these; a
later model of prefixed instructions must agree with them (log 33). -/

namespace Sys2Proof.Machine

/-- The looping modes (R160, R161). -/
inductive LoopMode where
  /-- One instruction runs over elements 0 to VL-1, then the pc moves (R160). -/
  | horizontalFirst
  /-- One element per instruction; the steps move by svstep only (R161). -/
  | verticalFirst
deriving DecidableEq, Repr

/-- The mode that vfirst selects (R36, R160, R161). -/
def Svstate.loopMode (v : Svstate) : LoopMode :=
  if v.vfirst then .verticalFirst else .horizontalFirst

/-- Whether every Vector operation is a no-op: vl = 0 (R165). -/
def Svstate.vectorNop (v : Svstate) : Bool :=
  decide (v.vl = 0)

/-- The operand positions a REMAP enable bit names, the canonical register names of R31. -/
inductive RemapOperand where
  | ra
  | rb
  | rc
  | rt
  | ea
deriving DecidableEq, Repr

/-- The place of an operand's bit in SVme, from the least significant: RA the LSB, EA the MSB (R31). -/
def RemapOperand.bit : RemapOperand → Nat
  | .ra => 0
  | .rb => 1
  | .rc => 2
  | .rt => 3
  | .ea => 4

/-- The selector field of an operand (R30). -/
def Svstate.remapSelector (v : Svstate) : RemapOperand → BitVec 2
  | .ra => v.mi0
  | .rb => v.mi1
  | .rc => v.mi2
  | .rt => v.mo0
  | .ea => v.mo1

/-- The SVSHAPE an operand's element offset goes through, none where its SVme bit is clear (R30, R31, R169). -/
def Svstate.remapShape (v : Svstate) (o : RemapOperand) : Option (BitVec 2) :=
  if v.svme.getLsbD o.bit then some (v.remapSelector o) else none

/-- Whether a REMAP outlives the next instruction (R35, R169). -/
def Svstate.remapPersists (v : Svstate) : Bool :=
  v.rmpst

/-- The parallelism group of an element, FLOOR(srcstep/hphint); no group where there is no hint (R34, R168). -/
def Svstate.hintGroup (v : Svstate) (element : Nat) : Option Nat :=
  if v.hphint = 0 then none else some (element / v.hphint.toNat)

/-- The CR field of a vectorised `svstep.` under REMAP: EQ the end of the innermost loop, LT of the second, GT of the
outermost, SO the last element of all (R170; "LE" read as LT, conflict C11). -/
def remapLoopCr (inner second outermost last : Bool) : CrField where
  lt := second
  gt := outermost
  eq := inner
  so := last

end Sys2Proof.Machine
end

