-- ==== Sys2Proof/Safety.lean ====
section
/-! DEFINITION. The terms in which claims speak of runs and states. -/

namespace Sys2Proof.Safety

open Sys2Proof.Machine

/-- The invariant of a machine with the parameters `c`: SVSTATE well formed (spec/10_state.md R45), memory canonical, the pc aligned
(20_memory.md R54). -/
abbrev Inv (c : Config.Parameters) (s : State) : Prop :=
  s.svstate.wf c ∧ s.mem.wf ∧ s.pc.toNat % 4 = 0

/-- The run goes on past this instruction: the pc can move by 4 (10_state.md R21). -/
abbrev CanAdvance (s : State) : Prop :=
  s.pc.toNat + 4 < 2 ^ 64

/-- Everything but the named parts is as before: every GPR but `rt`, those above 31 among them, CTR, the four SVSHAPEs and every byte of memory. -/
def SameButGpr (rt : RegNum) (s t : State) : Prop :=
  (∀ r : RegNum, r ≠ rt → t.readGpr r = s.readGpr r) ∧ t.gprHigh = s.gprHigh ∧ t.ctr = s.ctr ∧ t.svshape = s.svshape ∧
    ∀ a : Nat, t.mem.read a = s.mem.read a

/-- The SVSTATE fields neither instruction writes (10_state.md R46, the row of empty cells). -/
def SameCarried (v w : Svstate) : Prop :=
  w.mi0 = v.mi0 ∧ w.mi1 = v.mi1 ∧ w.mi2 = v.mi2 ∧ w.mo0 = v.mo0 ∧ w.mo1 = v.mo1 ∧ w.svme = v.svme ∧
    w.rsvd = v.rsvd ∧ w.hphint = v.hphint

/-- The four step fields are as before. -/
def SameSteps (v w : Svstate) : Prop :=
  w.srcstep = v.srcstep ∧ w.dststep = v.dststep ∧ w.ssubstep = v.ssubstep ∧ w.dsubstep = v.dsubstep

/-- The requested length, an unbounded integer, by the table of 41_setvl.md R132. -/
def vlen (rt ra : RegNum) (svi : BitVec 7) (vs : Bool) (s : State) : Nat :=
  if vs = false then s.svstate.vl.toNat
  else if ra ≠ 0 then (s.readGpr ra).toNat
  else if rt = 0 then svi.toNat + 1
  else s.ctr.toNat

/-- The MVL in force after the instruction (41_setvl.md R131). -/
def mvl (svi : BitVec 7) (ms : Bool) (s : State) : Nat :=
  if ms then svi.toNat + 1 else s.svstate.maxvl.toNat

/-- The lengths written: SVSTATE's two length fields, and GPR[rt] unless `rt` is 0. Every other register of the
machine but CR0 is as before, and the pc moves by 4. -/
def LengthsSet (rt : RegNum) (maxvl vl : Nat) (s t : State) : Prop :=
  t.svstate.maxvl.toNat = maxvl ∧ t.svstate.vl.toNat = vl ∧
    (∀ r : RegNum, t.readGpr r = if rt ≠ 0 ∧ r = rt then BitVec.ofNat 64 vl else s.readGpr r) ∧
    t.gprHigh = s.gprHigh ∧ t.ctr = s.ctr ∧ t.svshape = s.svshape ∧ t.pc = s.pc + 4

/-- CR0 as a record form of setvl leaves it (41_setvl.md R137). -/
def LengthReported (vl : Nat) (overflow : Prop) (t : State) : Prop :=
  t.cr0.lt = false ∧ (t.cr0.gt = true ↔ vl ≠ 0) ∧ (t.cr0.eq = true ↔ vl = 0) ∧ (t.cr0.so = true ↔ overflow)

/-- What a completed svstep leaves: SVSTATE, GPR[rt] (`rt` = 0 too), the pc moved by 4, every other register and every
byte of memory as before. -/
def StepDone (rt : RegNum) (value : Nat) (v : Svstate) (s t : State) : Prop :=
  t.svstate = v ∧ (∀ r : RegNum, t.readGpr r = if r = rt then BitVec.ofNat 64 value else s.readGpr r) ∧
    t.gprHigh = s.gprHigh ∧ t.ctr = s.ctr ∧ t.svshape = s.svshape ∧ (∀ a : Nat, t.mem.read a = s.mem.read a) ∧ t.pc = s.pc + 4

/-- Both forms of svstep complete with the same effect; the plain form leaves CR0, the record form puts `loopend` into
CR0.EQ. -/
def StepCompletes (rt : RegNum) (svi : BitVec 7) (vf : Bool) (value : Nat) (v : Svstate) (loopend : Bool) (s : State) :
    Prop :=
  (∃ t, exec (.svstep rt svi vf) s = .next t ∧ StepDone rt value v s t ∧ t.cr0 = s.cr0) ∧
    ∃ t, exec (.svstepRc rt svi vf) s = .next t ∧ StepDone rt value v s t ∧ t.cr0.eq = loopend

/-- Both forms of svstep stop with the same fault. -/
def StepFaults (rt : RegNum) (svi : BitVec 7) (vf : Bool) (f : Fault) (s : State) : Prop :=
  exec (.svstep rt svi vf) s = .fault f ∧ exec (.svstepRc rt svi vf) s = .fault f

/-- One side of the loop moves from (`step`, `sub`) to the next position of its walk: sub-vector innermost, or, with
`inverted`, elements innermost. It wraps after the last position, and an inverted wrap leaves the substep at `subvl`
(40_svstep.md R106, R107, R115, 42_vector_context.md R167). -/
def WalksInOrder (subvl : BitVec 2) (vl : BitVec 7) (inverted : Bool) (step : BitVec 7) (sub : BitVec 2)
    (next : Position) : Prop :=
  if inverted then
    (next.loopend = true ↔ sub.toNat * vl.toNat + step.toNat + 1 = vl.toNat * (subvl.toNat + 1)) ∧
      (next.loopend = true → next.step = 0 ∧ next.sub = subvl) ∧
      (next.loopend = false → next.step.toNat < vl.toNat ∧
        next.sub.toNat * vl.toNat + next.step.toNat = sub.toNat * vl.toNat + step.toNat + 1)
  else
    next.step.toNat * (subvl.toNat + 1) + next.sub.toNat =
        (step.toNat * (subvl.toNat + 1) + sub.toNat + 1) % (vl.toNat * (subvl.toNat + 1)) ∧
      next.sub.toNat ≤ subvl.toNat ∧
      (next.loopend = true ↔ step.toNat * (subvl.toNat + 1) + sub.toNat + 1 = vl.toNat * (subvl.toNat + 1))

/-- Element `k` is where a predicated step stops: under zeroing every element, else an unmasked one (40_svstep.md R106,
R108; the polarity is log 27). -/
def Stops (p : Predicate) (k : Nat) : Prop :=
  p.zeroing = true ∨ p.mask k = true

/-- One side of the loop moves from (`step`, `sub`) under a predicate (40_svstep.md R106, R107): a sub-vector not at its
end goes on inside the element; else the step goes to the next element that stops it, the substep 0 or, with `inverted`,
kept; where none is left the step is 0, and it is the end of the loop unless an inverted sub-vector goes on. -/
def StepsUnderPredicate (subvl : BitVec 2) (p : Predicate) (vl : BitVec 7) (inverted : Bool) (step : BitVec 7)
    (sub : BitVec 2) (next : Position) : Prop :=
  if inverted = false ∧ sub ≠ subvl then
    next = ⟨step, sub + 1, false⟩
  else
    (∀ k : Nat, step.toNat < k → k < vl.toNat → Stops p k → (∀ j, step.toNat < j → j < k → ¬ Stops p j) →
      next = ⟨BitVec.ofNat 7 k, if inverted then sub else 0, false⟩) ∧
    ((∀ k : Nat, step.toNat < k → k < vl.toNat → ¬ Stops p k) →
      next = if inverted then (if sub = subvl then ⟨0, subvl, true⟩ else ⟨0, sub + 1, false⟩) else ⟨0, 0, true⟩)

/-- SVSTATE after a step whose two sides came to `src` and `dst`: the four step fields, every other field as before
(10_state.md R46). -/
def movedTo (v : Svstate) (src dst : Position) : Svstate :=
  { v with srcstep := src.step, ssubstep := src.sub, dststep := dst.step, dsubstep := dst.sub }

/-- The same instruction executed again and again, stopping at the first fault or refusal. -/
def repeatExec (i : Instr) : Nat → State → Result
  | 0, s => .next s
  | k + 1, s =>
    match exec i s with
    | .next t => repeatExec i k t
    | .fault f => .fault f
    | .refused r => .refused r

/-- The next state of an outcome, if it is one. -/
def nextState? : Result → Option State
  | .next t => some t
  | _ => none

/-- The fault of an outcome, if it is one. -/
def faultOf? : Result → Option Fault
  | .fault f => some f
  | _ => none

/-- The refusal of an outcome, if it is one. -/
def refusalOf? : Result → Option Refusal
  | .refused r => some r
  | _ => none

end Sys2Proof.Safety
end

