-- ==== Sys2Proof/Certificates/Slice0/Obligations.lean ====
section
/-! DEFINITION. The statements for the provers. -/

open Sys2Proof Sys2Proof.Machine Sys2Proof.Safety

/-! ### Encoding -/

/-- For any opcode numbers and either byte order: decoding the word, or the bytes, of any instruction gives the
instruction it stands for: itself, or the expansion of a pseudo-op (spec/30_encoding.md R71, R72, R84, R85, R86). -/
def Obligations.DecodeOfEncodeIsTheExpansion : Prop :=
  ∀ (c : Config.Parameters) (i : Instr), c.legal → decodeWord c (encodeWord c i) = .ok i.expand ∧
    ∀ rest : List Byte, decode c (encode c i ++ rest) = .ok (i.expand, rest)

/-- The expansions are the spec's (R84, R85): a core instruction is itself, a pseudo-op is the setvl with the fields
listed, and it is encoded as that setvl's word. -/
def Obligations.PseudoOpsExpandAsTheSpecSays : Prop :=
  (∀ rt ra svi ms vs vf, (Instr.setvl rt ra svi ms vs vf).expand = .setvl rt ra svi ms vs vf ∧
      (Instr.setvlRc rt ra svi ms vs vf).expand = .setvlRc rt ra svi ms vs vf) ∧
    (∀ rt svi vf, (Instr.svstep rt svi vf).expand = .svstep rt svi vf ∧
      (Instr.svstepRc rt svi vf).expand = .svstepRc rt svi vf) ∧
    (∀ svi, (Instr.setvli svi).expand = .setvl 0 0 svi false true false ∧
      (Instr.setvliRc svi).expand = .setvlRc 0 0 svi false true false ∧
      (Instr.setmvli svi).expand = .setvl 0 0 svi true false false ∧
      (Instr.setmvliRc svi).expand = .setvlRc 0 0 svi true false false) ∧
    (∀ rt, (Instr.getvl rt).expand = .setvl rt 0 0 false false false ∧
      (Instr.getvlRc rt).expand = .setvlRc rt 0 0 false false false) ∧
    ∀ (c : Config.Parameters) (i : Instr), encodeWord c i = encodeWord c i.expand

/-- For any opcode numbers the decoder accepts exactly the words of the four core rows of the opcode map, no word is two
rows', and encoding what was decoded gives the word back; with the recommended numbers the rows are those of R74's table
(R74, R78; those numbers are PRESUMED, log 1). -/
def Obligations.AcceptedWordsAreTheCoreRows : Prop :=
  (∀ c : Config.Parameters, c.legal →
    (∀ w : InstrWord, (∃ i, decodeWord c w = .ok i) ↔ ∃ r ∈ coreRows c, r.covers w = true) ∧
      (coreRows c).Pairwise (fun r q => ∀ w : InstrWord, ¬ (r.covers w = true ∧ q.covers w = true)) ∧
      ∀ (w : InstrWord) (i : Instr), decodeWord c w = .ok i → encodeWord c i = w) ∧
    coreRows Config.recommended =
      [⟨"setvl", 0x58000036, 0xFC00003F⟩, ⟨"setvl.", 0x58000037, 0xFC00003F⟩,
       ⟨"svstep", 0x58000026, 0xFC1F01BF⟩, ⟨"svstep.", 0x58000027, 0xFC1F01BF⟩]

/-- Words written out in the spec decode to the instructions the spec says, with the recommended opcode numbers, which
are PRESUMED (log 1). In order: 95_test_vectors.md section 1 (three words), section 2 (V13), 40_svstep.md R100, and
95_test_vectors.md section 3 (S8). -/
def Obligations.SpecWordsDecode : Prop :=
  decodeWord Config.recommended 0x58000EB6 = .ok (.setvl 0 0 7 false true false) ∧
    decodeWord Config.recommended 0x58000F37 = .ok (.setvlRc 0 0 7 true false false) ∧
    decodeWord Config.recommended 0x58A00036 = .ok (.setvl 5 0 0 false false false) ∧
    decodeWord Config.recommended 0x58837FB7 = .ok (.setvlRc 4 3 63 true true false) ∧
    decodeWord Config.recommended 0x59400067 = .ok (.svstepRc 10 0 true) ∧
    decodeWord Config.recommended 0x58600A26 = .ok (.svstep 3 5 false)

/-- For any opcode numbers, a word that is no instruction is rejected by the name of its reason, in the bit numbers of R86
(what the model does on each is log 29). -/
def Obligations.OtherWordsAreRejectedByName : Prop :=
  ∀ (c : Config.Parameters) (w : InstrWord), c.legal →
    (w.toNat / 2 ^ 26 ≠ c.poSvl.toNat → decodeWord c w = .error (.notInScope w)) ∧
    (w.toNat / 2 ^ 26 = c.poSvl.toNat → w.toNat / 2 % 32 ≠ c.xoSetvl.toNat → w.toNat / 2 % 32 ≠ c.xoSvstep.toNat →
      decodeWord c w = .error (.undefinedUnderPo w)) ∧
    (w.toNat / 2 ^ 26 = c.poSvl.toNat → w.toNat / 2 % 32 = c.xoSvstep.toNat →
      (w.toNat / 2 ^ 16 % 32 ≠ 0 ∨ w.toNat / 2 ^ 7 % 4 ≠ 0) → decodeWord c w = .error (.reservedBits w))

/-- The assembler's length n is the field n - 1, for n from 1 to 128 and for no other n (R76, R82). -/
def Obligations.AssemblerLengthIsFieldPlusOne : Prop :=
  (∀ n : Nat, 1 ≤ n → n ≤ 128 → ∃ f : BitVec 7, lengthField n = some f ∧ f.toNat + 1 = n) ∧
    ∀ n : Nat, n = 0 ∨ 128 < n → lengthField n = none

/-! ### A step -/

/-- When the four bytes at an aligned pc decode to an instruction, a step executes it and nothing else, whatever the
parameters are; the machine's own step is the one with the recommended parameters (20_memory.md R52,
70_reset_and_hazards.md R229, 00_scope.md R5). -/
def Obligations.StepRunsTheDecodedInstruction : Prop :=
  (∀ s : State, step s = stepWith Config.recommended s) ∧
  ∀ (c : Config.Parameters) (s : State) (b0 b1 b2 b3 : Byte) (i : Instr), s.pc.toNat % 4 = 0 →
    s.mem.read s.pc.toNat = some b0 → s.mem.read (s.pc.toNat + 1) = some b1 →
    s.mem.read (s.pc.toNat + 2) = some b2 → s.mem.read (s.pc.toNat + 3) = some b3 →
    decode c [b0, b1, b2, b3] = .ok (i, []) →
    stepWith c s = execWith c i s ∧ (c = Config.recommended → step s = exec i s)

/-- Where no instruction can be fetched the step says why: a misaligned pc, a byte that is not listed, a word that does
not decode, of which only reserved bits are the trap (20_memory.md R54, 30_encoding.md R78, R86; logs 6, 21, 29). -/
def Obligations.StepStopsWithoutAnInstruction : Prop :=
  ∀ (c : Config.Parameters) (s : State),
    (s.pc.toNat % 4 ≠ 0 → stepWith c s = .refused (.misalignedPc s.pc)) ∧
    (s.pc.toNat % 4 = 0 → (∃ k < 4, s.mem.read (s.pc.toNat + k) = none) → stepWith c s = .fault (.endOfText s.pc)) ∧
    ∀ (bytes : List Byte) (w : InstrWord), s.pc.toNat % 4 = 0 → s.mem.readBytes s.pc = some bytes →
      (decode c bytes = .error (.reservedBits w) → stepWith c s = .fault (.illegalInstruction s.pc)) ∧
      (decode c bytes = .error (.notInScope w) → stepWith c s = .refused (.notInScope w)) ∧
      (decode c bytes = .error (.undefinedUnderPo w) → stepWith c s = .refused (.undefinedUnderPo w))

/-- An instruction placed at an aligned pc is the one the next step runs, placing it changes the four bytes at the pc
only, and the table's question about its word is answered with it (70_reset_and_hazards.md R231; log 5). -/
def Obligations.PlacedWordIsTheNextInstruction : Prop :=
  ∀ (s : State) (i : Instr), s.pc.toNat % 4 = 0 →
    let w := (encodeWord Config.recommended i).toNat
    decodeTableWord 32 w = some i.expand ∧
      step (s.withFetchWord 32 w) = exec i.expand (s.withFetchWord 32 w) ∧
      (s.withFetchWord 32 w).setMem s.mem = s ∧
      ∀ a : Nat, a < s.pc.toNat ∨ s.pc.toNat + 4 ≤ a → (s.withFetchWord 32 w).mem.read a = s.mem.read a

/-- A launch that meets its premises lays the text at its load address and nothing else into memory, puts the pc at the
entry, leaves every register, and meets the invariant (70_reset_and_hazards.md R231; that the entry counts words and that
the rest of memory is empty is log 34). -/
def Obligations.LaunchLaysTheTextAndMeetsTheInvariant : Prop :=
  ∀ (c : Config.Parameters) (l : Launch) (s : State), l.premises c s →
    Inv c (s.launch c l) ∧ (s.launch c l).pc.toNat = l.base.toNat + 4 * l.entry ∧
      (∀ (k : Nat) (h : k < l.text.length),
        (s.launch c l).mem.readBytes (l.base + BitVec.ofNat 64 (4 * k)) = some (bytesOfWord c.insnEndian l.text[k])) ∧
      (∀ a : Nat, a < l.base.toNat ∨ l.textEnd ≤ a → (s.launch c l).mem.read a = none) ∧
      SameButGpr 0 (s.setMem (s.launch c l).mem) (s.launch c l) ∧ (s.launch c l).readGpr 0 = s.readGpr 0 ∧
      (s.launch c l).cr0 = s.cr0 ∧ (s.launch c l).svstate = s.svstate

/-- Whatever the registers are, while memory is the launch's: at word k of the text the step runs the instruction that word
decodes to, and at the completed end, one word past the text, it is the model's fault endOfText (R231, R232, 20_memory.md
R61; logs 6 and 34). -/
def Obligations.LaunchedTextRunsWordByWord : Prop :=
  ∀ (c : Config.Parameters) (l : Launch) (s t : State), l.premises c s → t.mem = (s.launch c l).mem →
    (∀ (k : Nat) (h : k < l.text.length) (i : Instr), t.pc.toNat = l.base.toNat + 4 * k →
      decodeWord c l.text[k] = .ok i → stepWith c t = execWith c i t) ∧
    (l.completed t → stepWith c t = .fault (.endOfText t.pc))

/-! ### setvl and its pseudo-ops -/

/-- `setvl`, for every operand: it completes with MVL from the immediate or kept, VL the minimum of the requested length
and MVL, that VL in GPR[RT] unless the RT field is 0, CTR untouched, and the pc moved by 4 (R131, R132, R135, R142). The
form left out is the trap of log 8 (MvlAboveTheLimitTraps). SVi = 127 with ms = 0, vs = 1, RA = 0 and RT = 0 requests the
integer 128, so that VL = MVL: that is the model's choice of reading (R139, D6, log 9, unsafe for that form). -/
def Obligations.SetvlCompletesWithTheMinimum : Prop :=
  ∀ (rt ra : RegNum) (svi : BitVec 7) (ms vs vf : Bool) (s : State),
    ¬ (ms = true ∧ 64 < svi.toNat + 1) → CanAdvance s →
    ∃ t, exec (.setvl rt ra svi ms vs vf) s = .next t ∧
      LengthsSet rt (mvl svi ms s) (min (vlen rt ra svi vs s) (mvl svi ms s)) s t ∧ t.cr0 = s.cr0

/-- `setvl.`, for every operand: as `setvl`, and CR0 reports the final VL and whether the request exceeded MVL (R137;
LT = 0 is the model's reading, log 10; the form left out is the trap of log 8). SVi = 127 with the immediate consumed
requests the integer 128, so that VL = MVL and SO = 1: that is the model's choice of reading (R139, D6, log 9; a wrapping
machine has VL = 0 and SO = 0 there). -/
def Obligations.SetvlRecordCompletesAndReports : Prop :=
  ∀ (rt ra : RegNum) (svi : BitVec 7) (ms vs vf : Bool) (s : State),
    ¬ (ms = true ∧ 64 < svi.toNat + 1) → CanAdvance s →
    ∃ t, exec (.setvlRc rt ra svi ms vs vf) s = .next t ∧
      LengthsSet rt (mvl svi ms s) (min (vlen rt ra svi vs s) (mvl svi ms s)) s t ∧
      LengthReported (min (vlen rt ra svi vs s) (mvl svi ms s)) (mvl svi ms s < vlen rt ra svi vs s) t

/-- vfirst takes `vf` and RMpst is cleared with ms = 1; with ms = 0 both keep their values (R136). -/
def Obligations.VerticalFirstChangesOnlyWithMs : Prop :=
  ∀ (rt ra : RegNum) (svi : BitVec 7) (ms vs vf : Bool) (s t : State),
    exec (.setvl rt ra svi ms vs vf) s = .next t ∨ exec (.setvlRc rt ra svi ms vs vf) s = .next t →
    (ms = true → t.svstate.vfirst = vf ∧ t.svstate.rmpst = false) ∧
      (ms = false → t.svstate.vfirst = s.svstate.vfirst ∧ t.svstate.rmpst = s.svstate.rmpst)

/-- setvl writes none of the loop position, pack, unpack, hphint, SVme, the selectors or rsvd; and if it leaves vl at or
below srcstep or dststep, a later step is a fault (R141, 70_reset_and_hazards.md R225; the fault is log 18). -/
def Obligations.SetvlLeavesTheLoopPosition : Prop :=
  ∀ (rt ra : RegNum) (svi : BitVec 7) (ms vs vf : Bool) (s t : State),
    exec (.setvl rt ra svi ms vs vf) s = .next t ∨ exec (.setvlRc rt ra svi ms vs vf) s = .next t →
    SameSteps s.svstate t.svstate ∧ SameCarried s.svstate t.svstate ∧ t.svstate.pack = s.svstate.pack ∧
      t.svstate.unpack = s.svstate.unpack ∧
      (t.svstate.vl.toNat ≤ s.svstate.srcstep.toNat ∨ t.svstate.vl.toNat ≤ s.svstate.dststep.toNat →
        ∀ q : RegNum, ∃ why, StepFaults q 0 true (.svStateInconsistent why) t)

/-- The frame of setvl and setvl.: only GPR[RT] (none for RT = 0), CR0 (Rc = 1 only), SVSTATE's fields maxvl, vl, and with
ms = 1 vfirst and RMpst, and the pc may change; no byte of memory does (R46, R51, R134 to R136). -/
def Obligations.SetvlFrame : Prop :=
  ∀ (rt ra : RegNum) (svi : BitVec 7) (ms vs vf : Bool) (s t : State),
    (exec (.setvl rt ra svi ms vs vf) s = .next t → t.cr0 = s.cr0) ∧
    (exec (.setvl rt ra svi ms vs vf) s = .next t ∨ exec (.setvlRc rt ra svi ms vs vf) s = .next t →
      SameButGpr rt s t ∧ (rt = 0 → t.readGpr 0 = s.readGpr 0) ∧ SameSteps s.svstate t.svstate ∧
        SameCarried s.svstate t.svstate ∧ t.svstate.pack = s.svstate.pack ∧ t.svstate.unpack = s.svstate.unpack ∧
        (ms = false → t.svstate.maxvl = s.svstate.maxvl ∧ t.svstate.vfirst = s.svstate.vfirst ∧
          t.svstate.rmpst = s.svstate.rmpst))

/-- The frame of the six pseudo-ops: setvli and setmvli write no GPR, getvl writes GPR[RT] only; CR0 changes in the record
forms only; the loop position, the carried fields, CTR, the SVSHAPEs and memory never change; vfirst and RMpst change in
setmvli only (R143, R144, R145, R46). -/
def Obligations.PseudoOpFrame : Prop :=
  ∀ (svi : BitVec 7) (rt : RegNum) (s t : State),
    (exec (.setvli svi) s = .next t ∨ exec (.setmvli svi) s = .next t ∨ exec (.getvl rt) s = .next t →
      t.cr0 = s.cr0) ∧
    (exec (.setvli svi) s = .next t ∨ exec (.setvliRc svi) s = .next t ∨ exec (.setmvli svi) s = .next t ∨
        exec (.setmvliRc svi) s = .next t →
      ∀ r : RegNum, t.readGpr r = s.readGpr r) ∧
    (exec (.setvli svi) s = .next t ∨ exec (.setvliRc svi) s = .next t ∨ exec (.getvl rt) s = .next t ∨
        exec (.getvlRc rt) s = .next t →
      t.svstate.maxvl = s.svstate.maxvl ∧ t.svstate.vfirst = s.svstate.vfirst ∧ t.svstate.rmpst = s.svstate.rmpst) ∧
    (exec (.setvli svi) s = .next t ∨ exec (.setvliRc svi) s = .next t ∨ exec (.setmvli svi) s = .next t ∨
        exec (.setmvliRc svi) s = .next t ∨ exec (.getvl rt) s = .next t ∨ exec (.getvlRc rt) s = .next t →
      SameButGpr rt s t ∧ SameSteps s.svstate t.svstate ∧ SameCarried s.svstate t.svstate ∧
        t.svstate.pack = s.svstate.pack ∧ t.svstate.unpack = s.svstate.unpack)

/-- An MVL above 64 is the illegal instruction trap, in every form that sets MVL, and setvl faults in no other case
(R138; the limit is the reading of conflict C2, log 8). -/
def Obligations.MvlAboveTheLimitTraps : Prop :=
  (∀ (rt ra : RegNum) (svi : BitVec 7) (vs vf : Bool) (s : State), 64 < svi.toNat + 1 →
    exec (.setvl rt ra svi true vs vf) s = .fault (.illegalInstruction s.pc) ∧
      exec (.setvlRc rt ra svi true vs vf) s = .fault (.illegalInstruction s.pc) ∧
      exec (.setmvli svi) s = .fault (.illegalInstruction s.pc) ∧
      exec (.setmvliRc svi) s = .fault (.illegalInstruction s.pc)) ∧
    ∀ (rt ra : RegNum) (svi : BitVec 7) (ms vs vf : Bool) (s : State) (f : Fault),
      exec (.setvl rt ra svi ms vs vf) s = .fault f ∨ exec (.setvlRc rt ra svi ms vs vf) s = .fault f →
      ms = true ∧ 64 < svi.toNat + 1

/-- VL_LIMIT decides only the trap: for any legal limit, setting an MVL above it is the illegal instruction trap in every
form that sets MVL, an MVL up to it completes as with any other, and no other form reads the limit; the machine's own
instructions are those with the limit 64 (R131, R138, D5; which limit is the reading of conflict C2, log 8; the immediate
128 as an integer is log 9, LT = 0 is log 10). -/
def Obligations.VlLimitDecidesOnlyTheTrap : Prop :=
  (∀ (i : Instr) (s : State), exec i s = execWith Config.recommended i s) ∧ Config.recommended.vlLimit = 64 ∧
  ∀ (c : Config.Parameters) (s : State), c.legal →
    (∀ (rt ra : RegNum) (svi : BitVec 7) (vs vf : Bool), c.vlLimit < svi.toNat + 1 →
      execWith c (.setvl rt ra svi true vs vf) s = .fault (.illegalInstruction s.pc) ∧
        execWith c (.setvlRc rt ra svi true vs vf) s = .fault (.illegalInstruction s.pc)) ∧
    (∀ (rt ra : RegNum) (svi : BitVec 7) (vs vf : Bool), svi.toNat + 1 ≤ c.vlLimit → CanAdvance s →
      (∃ t, execWith c (.setvl rt ra svi true vs vf) s = .next t ∧
        LengthsSet rt (svi.toNat + 1) (min (vlen rt ra svi vs s) (svi.toNat + 1)) s t ∧ t.cr0 = s.cr0) ∧
      ∃ t, execWith c (.setvlRc rt ra svi true vs vf) s = .next t ∧
        LengthsSet rt (svi.toNat + 1) (min (vlen rt ra svi vs s) (svi.toNat + 1)) s t ∧
        LengthReported (min (vlen rt ra svi vs s) (svi.toNat + 1)) (svi.toNat + 1 < vlen rt ra svi vs s) t) ∧
    (∀ i : Instr, execWith c i s = execWith c i.expand s) ∧
    ∀ i : Instr, (∀ rt ra svi vs vf, i.expand ≠ .setvl rt ra svi true vs vf ∧ i.expand ≠ .setvlRc rt ra svi true vs vf) →
      execWith c i s = exec i s

/-- After setvl vl is at most maxvl whatever the state was, and a well-formed SVSTATE stays well formed, for any
legal limits (R45, R134; on the machine itself, 64 and 63). -/
def Obligations.SetvlKeepsSvstateWellFormed : Prop :=
  (∀ (rt ra : RegNum) (svi : BitVec 7) (ms vs vf : Bool) (s t : State),
    exec (.setvl rt ra svi ms vs vf) s = .next t ∨ exec (.setvlRc rt ra svi ms vs vf) s = .next t →
    t.svstate.vl.toNat ≤ t.svstate.maxvl.toNat ∧
      (s.svstate.wf Config.recommended → t.svstate.wf Config.recommended)) ∧
  ∀ (c : Config.Parameters) (rt ra : RegNum) (svi : BitVec 7) (ms vs vf : Bool) (s t : State), c.legal →
    execWith c (.setvl rt ra svi ms vs vf) s = .next t ∨ execWith c (.setvlRc rt ra svi ms vs vf) s = .next t →
    t.svstate.vl.toNat ≤ t.svstate.maxvl.toNat ∧ (s.svstate.wf c → t.svstate.wf c)

/-- Saturating a 64-bit register at 127 and then limiting to MVL is the minimum on unbounded integers, and overflow says
that the register exceeded MVL (R133). -/
def Obligations.SaturateThenLimitIsTheMinimum : Prop :=
  ∀ (x : Word) (bound : BitVec 7),
    limitLength bound.toNat (saturateLength x) = (min x.toNat bound.toNat, decide (bound.toNat < x.toNat))

/-- The SVi field is don't-care unless ms = 1 or VL is taken from the immediate, and vf is don't-care when ms = 0
(R78). -/
def Obligations.UnusedSetvlFieldsDoNotMatter : Prop :=
  ∀ (rt ra : RegNum) (svi svi' : BitVec 7) (vs vf vf' : Bool) (s : State),
    exec (.setvl rt ra svi false vs vf) s = exec (.setvl rt ra svi false vs vf') s ∧
    exec (.setvlRc rt ra svi false vs vf) s = exec (.setvlRc rt ra svi false vs vf') s ∧
    (¬ (vs = true ∧ ra = 0 ∧ rt = 0) →
      exec (.setvl rt ra svi false vs vf) s = exec (.setvl rt ra svi' false vs vf') s ∧
        exec (.setvlRc rt ra svi false vs vf) s = exec (.setvlRc rt ra svi' false vs vf') s)

/-- `setvli VL=n` and `setvli. VL=n`, n = SVi + 1: VL is the minimum of n and maxvl, no register is written; the record
form reports VL and whether n exceeded maxvl (R143; CR0.LT = 0 is log 10). SVi = 127 requests the integer 128, which is
the model's choice of reading (R139, D6, log 9; unsafe for n = 128: the spec says that a careful model refuses it). -/
def Obligations.SetvliCompletes : Prop :=
  ∀ (svi : BitVec 7) (s : State), CanAdvance s →
    (∃ t, exec (.setvli svi) s = .next t ∧
      LengthsSet 0 s.svstate.maxvl.toNat (min (svi.toNat + 1) s.svstate.maxvl.toNat) s t ∧ t.cr0 = s.cr0 ∧
      t.svstate.vfirst = s.svstate.vfirst ∧ t.svstate.rmpst = s.svstate.rmpst) ∧
    ∃ t, exec (.setvliRc svi) s = .next t ∧
      LengthsSet 0 s.svstate.maxvl.toNat (min (svi.toNat + 1) s.svstate.maxvl.toNat) s t ∧
      LengthReported (min (svi.toNat + 1) s.svstate.maxvl.toNat) (s.svstate.maxvl.toNat < svi.toNat + 1) t ∧
      t.svstate.vfirst = s.svstate.vfirst ∧ t.svstate.rmpst = s.svstate.rmpst

/-- `setmvli MVL=n` and `setmvli. MVL=n`, n = SVi + 1 at most 64: maxvl is n, the old VL is cut to n, Vertical-First mode
and REMAP persistence end, no register is written; the record form reports VL and whether it was cut (R144; CR0.LT = 0
is log 10). -/
def Obligations.SetmvliCompletes : Prop :=
  ∀ (svi : BitVec 7) (s : State), svi.toNat + 1 ≤ 64 → CanAdvance s →
    (∃ t, exec (.setmvli svi) s = .next t ∧
      LengthsSet 0 (svi.toNat + 1) (min s.svstate.vl.toNat (svi.toNat + 1)) s t ∧ t.cr0 = s.cr0 ∧
      t.svstate.vfirst = false ∧ t.svstate.rmpst = false) ∧
    ∃ t, exec (.setmvliRc svi) s = .next t ∧
      LengthsSet 0 (svi.toNat + 1) (min s.svstate.vl.toNat (svi.toNat + 1)) s t ∧
      LengthReported (min s.svstate.vl.toNat (svi.toNat + 1)) (svi.toNat + 1 < s.svstate.vl.toNat) t ∧
      t.svstate.vfirst = false ∧ t.svstate.rmpst = false

/-- `getvl RT` and `getvl. RT`: GPR[RT] is VL (nothing is written for RT = 0), SVSTATE keeps its value where vl is at most
maxvl and has vl truncated where it is not, and `getvl.` reports VL in CR0 (R145; CR0.LT = 0 is log 10). -/
def Obligations.GetvlCompletes : Prop :=
  ∀ (rt : RegNum) (s : State), CanAdvance s →
    (∃ t, exec (.getvl rt) s = .next t ∧
      LengthsSet rt s.svstate.maxvl.toNat (min s.svstate.vl.toNat s.svstate.maxvl.toNat) s t ∧ t.cr0 = s.cr0 ∧
      (s.svstate.vl.toNat ≤ s.svstate.maxvl.toNat → t.svstate = s.svstate)) ∧
    ∃ t, exec (.getvlRc rt) s = .next t ∧
      LengthsSet rt s.svstate.maxvl.toNat (min s.svstate.vl.toNat s.svstate.maxvl.toNat) s t ∧
      LengthReported (min s.svstate.vl.toNat s.svstate.maxvl.toNat) (s.svstate.maxvl.toNat < s.svstate.vl.toNat) t ∧
      (s.svstate.vl.toNat ≤ s.svstate.maxvl.toNat → t.svstate = s.svstate)

/-! ### svstep -/

/-- SVi = 12 to 15: `pack` is the bit worth 2 and `unpack` the bit worth 1, whatever vf is; RT gets pack * 2 + unpack
(R101; logs 13, 14). CR0.EQ of the record form is at_loopend: the spec's own decision (R111, D13, log 36). -/
def Obligations.PackUnpackStoresBothBits : Prop :=
  ∀ (rt : RegNum) (pack unpack vf : Bool) (s : State), CanAdvance s →
    StepCompletes rt (BitVec.ofNat 7 (12 + 2 * pack.toNat + unpack.toNat)) vf (2 * pack.toNat + unpack.toNat)
      { s.svstate with pack := pack, unpack := unpack } (s.svstate.atLoopend 0) s

/-- SVi = 5 to 8: RT gets srcstep, dststep, ssubstep, dsubstep, zero-extended, and nothing steps, whatever vf is (R103;
vf = 1 is the reading of conflict C4, log 12; the write of GPR 0 for RT = 0 is log 13). CR0.EQ of the record form is
at_loopend: the spec's own decision (R111, D13, log 36). -/
def Obligations.EnquiryReturnsTheStepField : Prop :=
  ∀ (rt : RegNum) (vf : Bool) (s : State), CanAdvance s →
    StepCompletes rt 5 vf s.svstate.srcstep.toNat s.svstate (s.svstate.atLoopend 0) s ∧
    StepCompletes rt 6 vf s.svstate.dststep.toNat s.svstate (s.svstate.atLoopend 0) s ∧
    StepCompletes rt 7 vf s.svstate.ssubstep.toNat s.svstate (s.svstate.atLoopend 0) s ∧
    StepCompletes rt 8 vf s.svstate.dsubstep.toNat s.svstate (s.svstate.atLoopend 0) s

/-- SVi = 1 to 4: RT gets the offset of SVSHAPE0 to SVSHAPE3, whatever that external function answers, and nothing steps,
whatever vf is (R104; the function is free, log 24; that vf = 1 does not step is the reading of conflict C4, D9, log 12,
unsafe; the write of GPR 0 for RT = 0 is log 13). CR0.EQ of the record form is at_loopend: the spec's own decision (R111,
D13, log 36). -/
def Obligations.RemapEnquiryReturnsTheOffset : Prop :=
  ∀ (rt : RegNum) (vf : Bool) (s : State) (n : BitVec 2), CanAdvance s →
    StepCompletes rt (BitVec.ofNat 7 (n.toNat + 1)) vf (Config.remapOffset n s).toNat s.svstate
      (s.svstate.atLoopend 0) s

/-- SVi = 0 with vf = 0: nothing steps, and RT gets 0 (R105, R112; logs 11, 13). CR0.EQ of the record form is at_loopend:
the spec's own decision (R111, D13, log 36). -/
def Obligations.EnquiryWithoutStepWritesZero : Prop :=
  ∀ (rt : RegNum) (s : State), CanAdvance s →
    StepCompletes rt 0 false 0 s.svstate (s.svstate.atLoopend 0) s

/-- SVi = 0 with vf = 1, on every state where a step is defined: srcstep and dststep each move on by one or wrap to 0 at
vl - 1, whatever pack and unpack are, RT gets 0, RT = 0 too (log 13), and `svstep.` says whether either wrapped (R116; that an
unprefixed svstep has subvl 0 and no predicate is log 17; that hphint is not looked at is the
model's choice, log 35; that CR0.EQ is the wrap is the spec's own decision, R111, D13, log 36). -/
def Obligations.StepMovesEachSideByOne : Prop :=
  ∀ (rt : RegNum) (s : State), CanAdvance s →
    s.svstate.srcstep.toNat < s.svstate.vl.toNat → s.svstate.dststep.toNat < s.svstate.vl.toNat →
    s.svstate.ssubstep = 0 → s.svstate.dsubstep = 0 →
    StepCompletes rt 0 true 0
      { s.svstate with
        srcstep := if s.svstate.srcstep.toNat + 1 = s.svstate.vl.toNat then 0 else s.svstate.srcstep + 1
        dststep := if s.svstate.dststep.toNat + 1 = s.svstate.vl.toNat then 0 else s.svstate.dststep + 1 }
      (decide (s.svstate.srcstep.toNat + 1 = s.svstate.vl.toNat) ||
        decide (s.svstate.dststep.toNat + 1 = s.svstate.vl.toNat)) s

/-- SVi = 0 with vf = 1 on a state that the asserts exclude: the fault, with its reason, and nothing else (R109; the order
of the reasons is the model's, log 18). -/
def Obligations.InconsistentStepFaults : Prop :=
  ∀ (rt : RegNum) (s : State),
    (s.svstate.vl.toNat = 0 → StepFaults rt 0 true (.svStateInconsistent .vlZero) s) ∧
    (0 < s.svstate.vl.toNat → s.svstate.vl.toNat ≤ s.svstate.srcstep.toNat →
      StepFaults rt 0 true (.svStateInconsistent .srcstepBeyond) s) ∧
    (s.svstate.srcstep.toNat < s.svstate.vl.toNat → s.svstate.vl.toNat ≤ s.svstate.dststep.toNat →
      StepFaults rt 0 true (.svStateInconsistent .dststepBeyond) s) ∧
    (s.svstate.srcstep.toNat < s.svstate.vl.toNat → s.svstate.dststep.toNat < s.svstate.vl.toNat →
      (s.svstate.ssubstep ≠ 0 ∨ s.svstate.dsubstep ≠ 0) →
      StepFaults rt 0 true (.svStateInconsistent .substepAbove) s)

/-- The reserved selectors 9, 10, 11 and 16 to 127 are the illegal instruction trap (R79, R114; log 15). -/
def Obligations.ReservedSelectorTraps : Prop :=
  ∀ (rt : RegNum) (svi : BitVec 7) (vf : Bool) (s : State),
    svi.toNat = 9 ∨ svi.toNat = 10 ∨ svi.toNat = 11 ∨ 16 ≤ svi.toNat →
    StepFaults rt svi vf (.illegalInstruction s.pc) s

/-- The frame of svstep and svstep.: only GPR[RT], CR0 (Rc = 1 only), the pc, the four step fields (SVi = 0 and vf = 1
only) and pack and unpack (SVi = 12 to 15 only) may change; no byte of memory does (R46, R51). The steps unchanged for
SVi = 0 with vf = 0 (conflict C3, log 11) and for SVi = 1 to 8 with vf = 1 (conflict C4, log 12) are the model's readings,
unsafe for just those forms. -/
def Obligations.SvstepFrame : Prop :=
  ∀ (rt : RegNum) (svi : BitVec 7) (vf : Bool) (s t : State),
    (exec (.svstep rt svi vf) s = .next t → t.cr0 = s.cr0) ∧
    (exec (.svstep rt svi vf) s = .next t ∨ exec (.svstepRc rt svi vf) s = .next t →
      SameButGpr rt s t ∧ SameCarried s.svstate t.svstate ∧ t.svstate.maxvl = s.svstate.maxvl ∧
        t.svstate.vl = s.svstate.vl ∧ t.svstate.vfirst = s.svstate.vfirst ∧ t.svstate.rmpst = s.svstate.rmpst ∧
        (¬ (svi = 0 ∧ vf = true) → SameSteps s.svstate t.svstate) ∧
        (¬ (12 ≤ svi.toNat ∧ svi.toNat ≤ 15) →
          t.svstate.pack = s.svstate.pack ∧ t.svstate.unpack = s.svstate.unpack))

/-- svstep moves the pc to the next instruction in every mode, and no mode does anything else to it (R113). -/
def Obligations.SvstepNeverBranches : Prop :=
  ∀ (rt : RegNum) (svi : BitVec 7) (vf : Bool) (s t : State),
    exec (.svstep rt svi vf) s = .next t ∨ exec (.svstepRc rt svi vf) s = .next t → t.pc = s.pc + 4

/-- CR0.EQ of a stepping `svstep.` says that the state before it stood on the last element: the iterators' loopend and
at_loopend coincide (R111, the spec's own decision D13, log 36). -/
def Obligations.RecordStepReportsTheLastElement : Prop :=
  ∀ (rt : RegNum) (s t : State), exec (.svstepRc rt 0 true) s = .next t →
    t.cr0.eq = s.svstate.atLoopend 0

/-- at_loopend, with vl - 1 on integers: true exactly on the last element of either side, false when vl = 0 (R110). -/
def Obligations.AtLoopendIsTheLastElement : Prop :=
  ∀ (subvl : BitVec 2) (v : Svstate),
    (v.atLoopend subvl = true ↔
      ((v.srcstep.toNat : Int) = v.vl.toNat - 1 ∧ v.ssubstep = subvl) ∨
        ((v.dststep.toNat : Int) = v.vl.toNat - 1 ∧ v.dsubstep = subvl)) ∧
    (v.vl = 0 → v.atLoopend subvl = false)

/-- A step takes a loop-consistent SVSTATE to a loop-consistent one, for every subvl and every predicate (R45). -/
def Obligations.StepKeepsLoopConsistency : Prop :=
  ∀ (c : Config.Parameters) (subvl : BitVec 2) (src dst : Predicate) (v : Svstate), c.legal →
    v.loopConsistent c subvl → (v.next subvl src dst).1.loopConsistent c subvl

/-- Without a predicate, a step moves the source side on in its walk, ordered by `pack`, and the destination side in its
own, ordered by `unpack`: sub-vector innermost without the bit, elements innermost with it; a side wraps after its last
position, a wrap with the bit leaves the substep at subvl (log 26), the two loopend flags are or-ed, and no other field
changes (10_state.md R33, R106, R107, R102, R115, R167; hphint is not looked at, log 35). -/
def Obligations.IteratorsWalkThePositionsInOrder : Prop :=
  ∀ (subvl : BitVec 2) (v : Svstate), v.srcstep.toNat < v.vl.toNat → v.dststep.toNat < v.vl.toNat →
    v.ssubstep.toNat ≤ subvl.toNat → v.dsubstep.toNat ≤ subvl.toNat →
    ∃ src dst : Position, WalksInOrder subvl v.vl v.pack v.srcstep v.ssubstep src ∧
      WalksInOrder subvl v.vl v.unpack v.dststep v.dsubstep dst ∧
      v.next subvl Predicate.none Predicate.none = (movedTo v src dst, src.loopend || dst.loopend)

/-- With predicates, for every subvl: the source side moves under its own predicate and `pack`, the destination side under
its own and `unpack`. Under non-zeroing a side goes to the next unmasked element or wraps where none is left, under zeroing
it goes on by one; a sub-vector not at its end goes on inside the element, and an inverted one goes on where the elements
wrap (10_state.md R33, R106 to R108; the polarity is the reading of conflict C6, log 27, the inverted wrap log 26). -/
def Obligations.MaskedElementsAreSkipped : Prop :=
  ∀ (subvl : BitVec 2) (p q : Predicate) (v : Svstate), v.srcstep.toNat < v.vl.toNat → v.dststep.toNat < v.vl.toNat →
    v.ssubstep.toNat ≤ subvl.toNat → v.dsubstep.toNat ≤ subvl.toNat →
    ∃ src dst : Position, StepsUnderPredicate subvl p v.vl v.pack v.srcstep v.ssubstep src ∧
      StepsUnderPredicate subvl q v.vl v.unpack v.dststep v.dsubstep dst ∧
      v.next subvl p q = (movedTo v src dst, src.loopend || dst.loopend)

/-- The loop of R111: from steps of 0, `svstep. RT,0,1` repeated visits elements 1, 2, ... and says CR0.EQ = 1 exactly at
the VL-th, which is back at the start (R111, R115; CR0.EQ as the wrap is log 36, a step by one whatever hphint is log 35;
that an unprefixed svstep has subvl 0 and no predicate is log 17, and the write of GPR 0 for RT = 0 is log 13). -/
def Obligations.RepeatedStepsVisitEveryElementOnce : Prop :=
  ∀ (rt : RegNum) (s : State) (k : Nat), 1 ≤ k → k ≤ s.svstate.vl.toNat → s.pc.toNat + 4 * k < 2 ^ 64 →
    s.svstate.srcstep = 0 → s.svstate.dststep = 0 → s.svstate.ssubstep = 0 → s.svstate.dsubstep = 0 →
    ∃ t, repeatExec (.svstepRc rt 0 true) k s = .next t ∧
      t.svstate = { s.svstate with
        srcstep := BitVec.ofNat 7 (k % s.svstate.vl.toNat)
        dststep := BitVec.ofNat 7 (k % s.svstate.vl.toNat) } ∧
      (t.cr0.eq = true ↔ k = s.svstate.vl.toNat) ∧ t.readGpr rt = 0

/-- svstep does not read the mode bit: with another vfirst it does the same (R36, R105). -/
def Obligations.SvstepDoesNotReadVfirst : Prop :=
  ∀ (rt : RegNum) (svi : BitVec 7) (vf b : Bool) (s t : State), svi = 0 ∨ 5 ≤ svi.toNat →
    (exec (.svstep rt svi vf) s = .next t →
      exec (.svstep rt svi vf) (s.setSvstate { s.svstate with vfirst := b }) =
        .next (t.setSvstate { t.svstate with vfirst := b })) ∧
    (exec (.svstepRc rt svi vf) s = .next t →
      exec (.svstepRc rt svi vf) (s.setSvstate { s.svstate with vfirst := b }) =
        .next (t.setSvstate { t.svstate with vfirst := b }))

/-! ### SVSTATE as a register -/

/-- Every field of SVSTATE stands at its shift in the 64-bit value, and the fields and the value determine each other
(R25). -/
def Obligations.SvstateFieldsStandAtTheirBits : Prop :=
  (∀ v : Svstate, v.toWord.toNat = v.maxvl.toNat * 2 ^ 57 + v.vl.toNat * 2 ^ 50 + v.srcstep.toNat * 2 ^ 43 +
      v.dststep.toNat * 2 ^ 36 + v.dsubstep.toNat * 2 ^ 34 + v.ssubstep.toNat * 2 ^ 32 + v.mi0.toNat * 2 ^ 30 +
      v.mi1.toNat * 2 ^ 28 + v.mi2.toNat * 2 ^ 26 + v.mo0.toNat * 2 ^ 24 + v.mo1.toNat * 2 ^ 22 +
      v.svme.toNat * 2 ^ 17 + v.rsvd.toNat * 2 ^ 11 + v.pack.toNat * 2 ^ 10 + v.unpack.toNat * 2 ^ 9 +
      v.hphint.toNat * 2 ^ 2 + v.rmpst.toNat * 2 + v.vfirst.toNat) ∧
    (∀ v : Svstate, Svstate.ofWord v.toWord = v) ∧ ∀ w : Word, (Svstate.ofWord w).toWord = w

/-- A write of SVSTATE, for any limits (64 and 63 on the machine itself, R37): out of range is the trap, a reserved bit is refused, a VL above MVL is truncated, all else is
taken as given (R37; the order of the tests and the reserved bits are the model's reading, log 25). -/
def Obligations.SvstateWriteTrapsThenTruncates : Prop :=
  Config.recommended.vlLimit = 64 ∧ Config.recommended.stepLimit = 63 ∧
  ∀ (c : Config.Parameters) (s : State) (v : Svstate),
    (c.vlLimit < v.maxvl.toNat ∨ c.vlLimit < v.vl.toNat ∨ c.stepLimit < v.srcstep.toNat ∨
        c.stepLimit < v.dststep.toNat →
      s.writeSvstate c v.toWord = .fault (.illegalInstruction s.pc)) ∧
    (v.maxvl.toNat ≤ c.vlLimit → v.vl.toNat ≤ c.vlLimit → v.srcstep.toNat ≤ c.stepLimit →
        v.dststep.toNat ≤ c.stepLimit → v.rsvd ≠ 0 →
      s.writeSvstate c v.toWord = .refused (.svstateReservedBits v.toWord)) ∧
    (v.maxvl.toNat ≤ c.vlLimit → v.vl.toNat ≤ c.vlLimit → v.srcstep.toNat ≤ c.stepLimit →
        v.dststep.toNat ≤ c.stepLimit → v.rsvd = 0 →
      s.writeSvstate c v.toWord =
        .next (s.setSvstate { v with vl := if v.maxvl.toNat < v.vl.toNat then v.maxvl else v.vl }))

/-- Saving the 64 bits of a well-formed SVSTATE and writing them back, in whatever state, restores it exactly, as a
register and under its SPR number, whatever that is (60_exceptions.md R196, 00_scope.md R5, D27; log 31). -/
def Obligations.SavedSvstateIsRestored : Prop :=
  ∀ (c : Config.Parameters) (s u : State), s.svstate.wf c →
    u.writeSvstate c s.readSvstate = .next (u.setSvstate s.svstate) ∧ ∃ w, s.readSpr c c.sprSvstate = some w ∧
      u.writeSpr c c.sprSvstate w = some (.next (u.setSvstate s.svstate))

/-- An operand is remapped exactly when its SVme bit is set, through the SVSHAPE its selector names; with SVme zero none is
(R30, R31, R169). -/
def Obligations.RemapIsSelectedByItsEnableBit : Prop :=
  (∀ w : Word,
    (Svstate.ofWord w).remapShape .ra = (if w.getLsbD 17 then some (w.extractLsb' 30 2) else none) ∧
    (Svstate.ofWord w).remapShape .rb = (if w.getLsbD 18 then some (w.extractLsb' 28 2) else none) ∧
    (Svstate.ofWord w).remapShape .rc = (if w.getLsbD 19 then some (w.extractLsb' 26 2) else none) ∧
    (Svstate.ofWord w).remapShape .rt = (if w.getLsbD 20 then some (w.extractLsb' 24 2) else none) ∧
    (Svstate.ofWord w).remapShape .ea = (if w.getLsbD 21 then some (w.extractLsb' 22 2) else none)) ∧
    ∀ (v : Svstate) (o : RemapOperand), v.svme = 0 → v.remapShape o = none

/-- Elements with equal FLOOR(element / hphint) form one group; hphint = 0 gives no group (R34). -/
def Obligations.HintGroupsElementsByFloor : Prop :=
  ∀ (v : Svstate) (a b : Nat), (v.hphint = 0 → v.hintGroup a = none) ∧
    (v.hphint ≠ 0 → (v.hintGroup a = v.hintGroup b ↔ a / v.hphint.toNat = b / v.hphint.toNat) ∧
      ∃ g, v.hintGroup a = some g)

/-! ### The whole machine -/

/-- Whatever instruction completes, the fields neither instruction writes, the GPRs above 31, CTR, the SVSHAPEs and every byte of memory are
as before, and the pc has moved by 4 (R23, R46, R51, R113, R142). -/
def Obligations.EveryInstructionCarriesTheRest : Prop :=
  ∀ (i : Instr) (s t : State), exec i s = .next t →
    SameCarried s.svstate t.svstate ∧ t.gprHigh = s.gprHigh ∧ t.ctr = s.ctr ∧ t.svshape = s.svshape ∧
      (∀ a : Nat, t.mem.read a = s.mem.read a) ∧ t.pc = s.pc + 4

/-- The only faults an instruction can raise are the trap at its own address and, for a stepping svstep, the inconsistency
fault; the only refusal is the wrap of the pc, at the top of the address space only (R193; logs 18, 21). -/
def Obligations.InstructionsStopOnlyByTheseNames : Prop :=
  ∀ (i : Instr) (s : State),
    (∀ f, exec i s = .fault f → f = .illegalInstruction s.pc ∨
      ∃ why rt, f = .svStateInconsistent why ∧ (i = .svstep rt 0 true ∨ i = .svstepRc rt 0 true)) ∧
    ∀ r, exec i s = .refused r → r = .pcWrap s.pc ∧ 2 ^ 64 ≤ s.pc.toNat + 4

/-- Every step keeps the invariant, whatever the parameters are: SVSTATE well formed, memory canonical, the pc aligned
(R45, R21). -/
def Obligations.StepKeepsTheInvariant : Prop :=
  (∀ s t : State, Inv Config.recommended s → step s = .next t → Inv Config.recommended t) ∧
    ∀ (c : Config.Parameters) (s t : State), c.legal → Inv c s → stepWith c s = .next t → Inv c t

/-- The machine after reset meets the invariant, and does so for every well-formed SVSTATE_RESET (the other reset values
are the model's, logs 3 to 6). -/
def Obligations.ResetMeetsTheInvariant : Prop :=
  Inv Config.recommended State.reset ∧
    ∀ c : Config.Parameters, (Svstate.ofWord c.svstateReset).wf c → Inv c (State.resetWith c)

/-- The reset values, all of them the model's own choice (R44 gives none; logs 3, 4, 5, 6): every GPR, CTR and SVSHAPE 0,
CR0 clear, SVSTATE all zero, pc 0, no memory listed. With other parameters SVSTATE is SVSTATE_RESET, its reserved
bits as given (log 37), and the GPRs are NGPR
in number, those above 31 being 0 too (00_scope.md R5). -/
def Obligations.ResetValuesAreTheLoggedOnes : Prop :=
  State.reset = State.resetWith Config.recommended ∧
    (∀ c : Config.Parameters, c.legal → (State.resetWith c).readSvstate = c.svstateReset ∧
      32 + (State.resetWith c).gprHigh.length = c.ngpr ∧ ∀ v ∈ (State.resetWith c).gprHigh, v = 0) ∧
    (∀ r : RegNum, State.reset.readGpr r = 0) ∧ State.reset.ctr = 0 ∧ State.reset.pc = 0 ∧
    State.reset.cr0 = ⟨false, false, false, false⟩ ∧ State.reset.readSvstate = 0 ∧
    (∀ n : Fin 4, State.reset.svshape[n.val]'n.isLt = 0) ∧ ∀ a : Nat, State.reset.mem.read a = none

/-- A run moves straight on: after n completed steps the pc is 4 n further and memory is as it was; so a text with nothing
after it ends or stops within its length (R232; the end of the text is the fault of log 6). -/
def Obligations.RunsMoveStraightOnAndEnd : Prop :=
  (∀ (n : Nat) (s t : State), Sys2Proof.core.run n s = .next t →
    t.pc.toNat = s.pc.toNat + 4 * n ∧ t.mem = s.mem) ∧
  ∀ (n : Nat) (s : State), (∀ a : Nat, s.pc.toNat + 4 * n ≤ a → s.mem.read a = none) →
    ∀ t, Sys2Proof.core.run (n + 1) s ≠ .next t
end

