-- ==== Sys2Proof/Laws/State.lean ====
section
/-! SUPPORT. One lemma per field per update of State, so that no later proof unfolds a record update. -/

namespace Sys2Proof.Machine

@[simp] theorem State.setGpr_gprHigh (s : State) (r : RegNum) (v : Word) : (s.setGpr r v).gprHigh = s.gprHigh := rfl
@[simp] theorem State.setGpr_pc (s : State) (r : RegNum) (v : Word) : (s.setGpr r v).pc = s.pc := rfl
@[simp] theorem State.setGpr_cr0 (s : State) (r : RegNum) (v : Word) : (s.setGpr r v).cr0 = s.cr0 := rfl
@[simp] theorem State.setGpr_ctr (s : State) (r : RegNum) (v : Word) : (s.setGpr r v).ctr = s.ctr := rfl
@[simp] theorem State.setGpr_svstate (s : State) (r : RegNum) (v : Word) : (s.setGpr r v).svstate = s.svstate := rfl
@[simp] theorem State.setGpr_svshape (s : State) (r : RegNum) (v : Word) : (s.setGpr r v).svshape = s.svshape := rfl
@[simp] theorem State.setGpr_mem (s : State) (r : RegNum) (v : Word) : (s.setGpr r v).mem = s.mem := rfl
@[simp] theorem State.setGpr_draws (s : State) (r : RegNum) (v : Word) : (s.setGpr r v).draws = s.draws := rfl

@[simp] theorem State.setCr0_gpr (s : State) (c : CrField) : (s.setCr0 c).gpr = s.gpr := rfl
@[simp] theorem State.setCr0_gprHigh (s : State) (c : CrField) : (s.setCr0 c).gprHigh = s.gprHigh := rfl
@[simp] theorem State.setCr0_pc (s : State) (c : CrField) : (s.setCr0 c).pc = s.pc := rfl
@[simp] theorem State.setCr0_cr0 (s : State) (c : CrField) : (s.setCr0 c).cr0 = c := rfl
@[simp] theorem State.setCr0_ctr (s : State) (c : CrField) : (s.setCr0 c).ctr = s.ctr := rfl
@[simp] theorem State.setCr0_svstate (s : State) (c : CrField) : (s.setCr0 c).svstate = s.svstate := rfl
@[simp] theorem State.setCr0_svshape (s : State) (c : CrField) : (s.setCr0 c).svshape = s.svshape := rfl
@[simp] theorem State.setCr0_mem (s : State) (c : CrField) : (s.setCr0 c).mem = s.mem := rfl
@[simp] theorem State.setCr0_draws (s : State) (c : CrField) : (s.setCr0 c).draws = s.draws := rfl

@[simp] theorem State.setSvstate_gpr (s : State) (v : Svstate) : (s.setSvstate v).gpr = s.gpr := rfl
@[simp] theorem State.setSvstate_gprHigh (s : State) (v : Svstate) : (s.setSvstate v).gprHigh = s.gprHigh := rfl
@[simp] theorem State.setSvstate_pc (s : State) (v : Svstate) : (s.setSvstate v).pc = s.pc := rfl
@[simp] theorem State.setSvstate_cr0 (s : State) (v : Svstate) : (s.setSvstate v).cr0 = s.cr0 := rfl
@[simp] theorem State.setSvstate_ctr (s : State) (v : Svstate) : (s.setSvstate v).ctr = s.ctr := rfl
@[simp] theorem State.setSvstate_svstate (s : State) (v : Svstate) : (s.setSvstate v).svstate = v := rfl
@[simp] theorem State.setSvstate_svshape (s : State) (v : Svstate) : (s.setSvstate v).svshape = s.svshape := rfl
@[simp] theorem State.setSvstate_mem (s : State) (v : Svstate) : (s.setSvstate v).mem = s.mem := rfl
@[simp] theorem State.setSvstate_draws (s : State) (v : Svstate) : (s.setSvstate v).draws = s.draws := rfl

@[simp] theorem State.setPc_gpr (s : State) (p : Word) : (s.setPc p).gpr = s.gpr := rfl
@[simp] theorem State.setPc_gprHigh (s : State) (p : Word) : (s.setPc p).gprHigh = s.gprHigh := rfl
@[simp] theorem State.setPc_pc (s : State) (p : Word) : (s.setPc p).pc = p := rfl
@[simp] theorem State.setPc_cr0 (s : State) (p : Word) : (s.setPc p).cr0 = s.cr0 := rfl
@[simp] theorem State.setPc_ctr (s : State) (p : Word) : (s.setPc p).ctr = s.ctr := rfl
@[simp] theorem State.setPc_svstate (s : State) (p : Word) : (s.setPc p).svstate = s.svstate := rfl
@[simp] theorem State.setPc_svshape (s : State) (p : Word) : (s.setPc p).svshape = s.svshape := rfl
@[simp] theorem State.setPc_mem (s : State) (p : Word) : (s.setPc p).mem = s.mem := rfl
@[simp] theorem State.setPc_draws (s : State) (p : Word) : (s.setPc p).draws = s.draws := rfl

@[simp] theorem State.setMem_gpr (s : State) (m : Memory) : (s.setMem m).gpr = s.gpr := rfl
@[simp] theorem State.setMem_gprHigh (s : State) (m : Memory) : (s.setMem m).gprHigh = s.gprHigh := rfl
@[simp] theorem State.setMem_pc (s : State) (m : Memory) : (s.setMem m).pc = s.pc := rfl
@[simp] theorem State.setMem_cr0 (s : State) (m : Memory) : (s.setMem m).cr0 = s.cr0 := rfl
@[simp] theorem State.setMem_ctr (s : State) (m : Memory) : (s.setMem m).ctr = s.ctr := rfl
@[simp] theorem State.setMem_svstate (s : State) (m : Memory) : (s.setMem m).svstate = s.svstate := rfl
@[simp] theorem State.setMem_svshape (s : State) (m : Memory) : (s.setMem m).svshape = s.svshape := rfl
@[simp] theorem State.setMem_mem (s : State) (m : Memory) : (s.setMem m).mem = m := rfl
@[simp] theorem State.setMem_draws (s : State) (m : Memory) : (s.setMem m).draws = s.draws := rfl

@[simp] theorem State.drawBits_gpr (s : State) (n : Nat) : (s.drawBits n).gpr = s.gpr := rfl
@[simp] theorem State.drawBits_gprHigh (s : State) (n : Nat) : (s.drawBits n).gprHigh = s.gprHigh := rfl
@[simp] theorem State.drawBits_pc (s : State) (n : Nat) : (s.drawBits n).pc = s.pc := rfl
@[simp] theorem State.drawBits_cr0 (s : State) (n : Nat) : (s.drawBits n).cr0 = s.cr0 := rfl
@[simp] theorem State.drawBits_ctr (s : State) (n : Nat) : (s.drawBits n).ctr = s.ctr := rfl
@[simp] theorem State.drawBits_svstate (s : State) (n : Nat) : (s.drawBits n).svstate = s.svstate := rfl
@[simp] theorem State.drawBits_svshape (s : State) (n : Nat) : (s.drawBits n).svshape = s.svshape := rfl
@[simp] theorem State.drawBits_mem (s : State) (n : Nat) : (s.drawBits n).mem = s.mem := rfl
@[simp] theorem State.drawBits_draws (s : State) (n : Nat) : (s.drawBits n).draws = s.draws + n := rfl

@[simp] theorem State.setCr0_readGpr (s : State) (c : CrField) (r : RegNum) : (s.setCr0 c).readGpr r = s.readGpr r := rfl
@[simp] theorem State.setSvstate_readGpr (s : State) (v : Svstate) (r : RegNum) : (s.setSvstate v).readGpr r = s.readGpr r := rfl
@[simp] theorem State.setPc_readGpr (s : State) (p : Word) (r : RegNum) : (s.setPc p).readGpr r = s.readGpr r := rfl
@[simp] theorem State.setMem_readGpr (s : State) (m : Memory) (r : RegNum) : (s.setMem m).readGpr r = s.readGpr r := rfl
@[simp] theorem State.drawBits_readGpr (s : State) (n : Nat) (r : RegNum) : (s.drawBits n).readGpr r = s.readGpr r := rfl

/-- A written register reads as what was written. -/
@[simp] theorem State.setGpr_readGpr_same (s : State) (r : RegNum) (v : Word) : (s.setGpr r v).readGpr r = v := by
  simp [State.setGpr, State.readGpr]

/-- Writing one register leaves every other. -/
theorem State.setGpr_readGpr_other (s : State) (r q : RegNum) (v : Word) (h : q ≠ r) :
    (s.setGpr r v).readGpr q = s.readGpr q := by
  have hne : r.toNat ≠ q.toNat := fun e => h (BitVec.eq_of_toNat_eq e.symm)
  simp [State.setGpr, State.readGpr, hne]

end Sys2Proof.Machine
end

