-- ==== Sys2Proof/Laws/Ops.lean ====
section
/-! SUPPORT. What the shared operations can do: moving the pc, writing the whole of SVSTATE. -/

namespace Sys2Proof.Machine

/-- Moving the pc answers a next state exactly when the pc can move, and then only the pc changes. -/
theorem State.advance_eq_next (s t : State) :
    s.advance = .next t ↔ Safety.CanAdvance s ∧ t = s.setPc (s.pc + 4) := by
  unfold State.advance
  split
  · rename_i h
    exact ⟨fun e => ⟨h, (Host.Outcome.next.inj e).symm⟩, fun e => by rw [e.2]⟩
  · rename_i h
    exact ⟨(fun e => nomatch e), fun e => absurd e.1 h⟩

/-- Moving the pc never faults. -/
theorem State.advance_ne_fault (s : State) (f : Fault) : s.advance ≠ .fault f := by
  unfold State.advance
  split <;> simp

/-- Moving the pc is refused at the top of the address space only, under that name. -/
theorem State.advance_eq_refused (s : State) (r : Refusal) :
    s.advance = .refused r ↔ ¬ Safety.CanAdvance s ∧ r = .pcWrap s.pc := by
  unfold State.advance
  split
  · rename_i h
    exact ⟨(fun e => nomatch e), fun e => absurd h e.1⟩
  · rename_i h
    exact ⟨fun e => ⟨h, (Host.Outcome.refused.inj e).symm⟩, fun e => by rw [e.2]⟩

/-- A write of SVSTATE that answers a next state changes SVSTATE only, to the fields given with vl truncated. -/
theorem State.writeSvstate_next (c : Config.Parameters) (s t : State) (w : Word) (h : s.writeSvstate c w = .next t) :
    ∃ v : Svstate, t = s.setSvstate v ∧ v.wf c ∧
      v = { Svstate.ofWord w with vl := v.vl } ∧ (v.vl = (Svstate.ofWord w).vl ∨ v.vl = (Svstate.ofWord w).maxvl) := by
  unfold State.writeSvstate at h
  simp only at h
  split at h
  · cases h
  · rename_i hlim
    split at h
    · cases h
    · rename_i hrsvd
      simp only [not_or, Nat.not_lt] at hlim
      split at h
      · cases h
        exact ⟨_, rfl, ⟨hlim.1, le_rfl, hlim.2.2.1, hlim.2.2.2, by simpa using hrsvd⟩, rfl, .inr rfl⟩
      · rename_i hvl
        cases h
        exact ⟨_, rfl, ⟨hlim.1, by omega, hlim.2.2.1, hlim.2.2.2, by simpa using hrsvd⟩, rfl, .inl rfl⟩

end Sys2Proof.Machine
end

