-- ==== Sys2Proof/Laws/Setvl.lean ====
section
/-! SUPPORT. What setvl's shared operation can do. -/

namespace Sys2Proof.Machine

variable (rc : Bool) (rt ra : RegNum) (svi : BitVec 7) (ms vs vf : Bool) (s : State)

@[simp] theorem setvlState_pc : (setvlState rc rt ra svi ms vs vf s).pc = s.pc := by
  simp only [setvlState]
  split <;> split <;> rfl

@[simp] theorem setvlState_gprHigh : (setvlState rc rt ra svi ms vs vf s).gprHigh = s.gprHigh := by
  simp only [setvlState]
  split <;> split <;> rfl

@[simp] theorem setvlState_ctr : (setvlState rc rt ra svi ms vs vf s).ctr = s.ctr := by
  simp only [setvlState]
  split <;> split <;> rfl

@[simp] theorem setvlState_svshape : (setvlState rc rt ra svi ms vs vf s).svshape = s.svshape := by
  simp only [setvlState]
  split <;> split <;> rfl

@[simp] theorem setvlState_mem : (setvlState rc rt ra svi ms vs vf s).mem = s.mem := by
  simp only [setvlState]
  split <;> split <;> rfl

@[simp] theorem setvlState_draws : (setvlState rc rt ra svi ms vs vf s).draws = s.draws := by
  simp only [setvlState]
  split <;> split <;> rfl

@[simp] theorem setvlState_svstate : (setvlState rc rt ra svi ms vs vf s).svstate =
    setvlSvstate ms vf (selectMvl svi ms s) (setvlLength rt ra svi ms vs s).1 s.svstate := by
  simp only [setvlState]
  split <;> split <;> rfl

@[simp] theorem setvlState_cr0 : (setvlState rc rt ra svi ms vs vf s).cr0 =
    if rc then setvlCr0 (setvlLength rt ra svi ms vs s).1 (setvlLength rt ra svi ms vs s).2 else s.cr0 := by
  simp only [setvlState]
  split <;> split <;> rfl

/-- The registers after setvl: RT holds the length unless its field is 0, every other is as before. -/
theorem setvlState_readGpr (r : RegNum) : (setvlState rc rt ra svi ms vs vf s).readGpr r =
    if rt ≠ 0 ∧ r = rt then BitVec.ofNat 64 (setvlLength rt ra svi ms vs s).1 else s.readGpr r := by
  by_cases h0 : rt = 0
  · simp only [setvlState, h0]
    split <;> simp
  · by_cases hr : r = rt
    · subst hr
      simp only [setvlState, h0, if_false, ne_eq, not_false_eq_true, and_self, if_true]
      split <;> simp
    · simp only [setvlState, h0, if_false, hr, and_false]
      split <;> simp [State.setGpr_readGpr_other _ _ _ _ hr]

/-- setvl answers a next state exactly when it does not trap and the pc can move. -/
theorem runSetvl_eq_next (c : Config.Parameters) (t : State) : runSetvl c rc rt ra svi ms vs vf s = .next t ↔
    setvlTraps c svi ms = false ∧ Safety.CanAdvance s ∧ t = (setvlState rc rt ra svi ms vs vf s).setPc (s.pc + 4) := by
  unfold runSetvl
  cases setvlTraps c svi ms with
  | true => simp [State.trapIllegal]
  | false => simp [State.advance_eq_next, Safety.CanAdvance]

/-- The final VL never exceeds the MVL, and is below 128. -/
theorem setvlLength_le : (setvlLength rt ra svi ms vs s).1 ≤ selectMvl svi ms s := by
  simp only [setvlLength, limitLength]
  split <;> omega

end Sys2Proof.Machine
end

