-- ==== Sys2Proof/Laws/Svstep.lean ====
section
/-! SUPPORT. What svstep's shared operation and the iterators can do. -/

namespace Sys2Proof.Machine

variable (rc : Bool) (rt : RegNum) (e : StepEffect) (s : State)

@[simp] theorem stepState_pc : (stepState rc rt e s).pc = s.pc := by
  cases rc <;> rfl

@[simp] theorem stepState_gprHigh : (stepState rc rt e s).gprHigh = s.gprHigh := by
  cases rc <;> rfl

@[simp] theorem stepState_ctr : (stepState rc rt e s).ctr = s.ctr := by
  cases rc <;> rfl

@[simp] theorem stepState_svshape : (stepState rc rt e s).svshape = s.svshape := by
  cases rc <;> rfl

@[simp] theorem stepState_mem : (stepState rc rt e s).mem = s.mem := by
  cases rc <;> rfl

@[simp] theorem stepState_svstate : (stepState rc rt e s).svstate = e.svstate := by
  cases rc <;> rfl

@[simp] theorem stepState_cr0 : (stepState rc rt e s).cr0 = if rc then svstepCr0 s.draws e.loopend else s.cr0 := by
  cases rc <;> rfl

@[simp] theorem stepState_draws :
    (stepState rc rt e s).draws = if rc then s.draws + svstepCr0Draws else s.draws := by
  cases rc <;> rfl

/-- The registers after svstep: RT holds the value, every other is as before. -/
theorem stepState_readGpr (r : RegNum) :
    (stepState rc rt e s).readGpr r = if r = rt then e.value.setWidth 64 else s.readGpr r := by
  by_cases hr : r = rt
  · subst hr
    cases rc <;> simp [stepState]
  · cases rc <;> simp [stepState, hr, State.setGpr_readGpr_other _ _ _ _ hr]

/-- svstep answers a next state exactly when its effect is defined and the pc can move. -/
theorem runSvstep_eq_next (svi : BitVec 7) (vf : Bool) (t : State) : runSvstep rc rt svi vf s = .next t ↔
    ∃ e, stepEffect svi vf s = .ok e ∧ Safety.CanAdvance s ∧ t = (stepState rc rt e s).setPc (s.pc + 4) := by
  unfold runSvstep
  cases stepEffect svi vf s with
  | error f => simp
  | ok e => simp [State.advance_eq_next, Safety.CanAdvance]

/-- A defined step is one on a state with no inconsistency. -/
theorem takeStep_eq_ok (v : Svstate) (e : StepEffect) : takeStep v = .ok e ↔
    v.inconsistency Config.unprefixedSubvl = none ∧
      e = ⟨0, (v.next Config.unprefixedSubvl Predicate.none Predicate.none).2,
        (v.next Config.unprefixedSubvl Predicate.none Predicate.none).1⟩ := by
  unfold takeStep
  cases v.inconsistency Config.unprefixedSubvl with
  | some why => simp
  | none => simp [eq_comm]

/-- No inconsistency says exactly that the steps are below vl and the substeps within subvl. -/
theorem Svstate.inconsistency_eq_none (subvl : BitVec 2) (v : Svstate) : v.inconsistency subvl = none ↔
    1 ≤ v.vl.toNat ∧ v.srcstep.toNat ≤ v.vl.toNat - 1 ∧ v.dststep.toNat ≤ v.vl.toNat - 1 ∧
      v.ssubstep.toNat ≤ subvl.toNat ∧ v.dsubstep.toNat ≤ subvl.toNat := by
  unfold Svstate.inconsistency
  repeat' split
  all_goals simp
  all_goals omega

/-- The skip loop answers a step in range: 0 at the end, else one further on and at most `left` further. -/
theorem skipLoop_range (p : Predicate) (left step : Nat) :
    ((skipLoop p left step).2 = true ∧ (skipLoop p left step).1 = 0) ∨
      ((skipLoop p left step).2 = false ∧ step < (skipLoop p left step).1 ∧
        (skipLoop p left step).1 ≤ step + left) := by
  induction left generalizing step with
  | zero => exact .inl ⟨rfl, rfl⟩
  | succ n ih =>
    simp only [skipLoop]
    split
    · exact .inr ⟨rfl, by omega, by simp only; omega⟩
    · rcases ih (step + 1) with h | h
      · exact .inl h
      · exact .inr ⟨h.1, by omega, by omega⟩

/-- Without a predicate the loop leaves on its first turn. -/
theorem skipLoop_none (left step : Nat) :
    skipLoop Predicate.none left step = if left = 0 then (0, true) else (step + 1, false) := by
  cases left <;> simp [skipLoop, Predicate.none]

/-- A step writes the four step fields and nothing else. -/
theorem Svstate.next_fields (subvl : BitVec 2) (p q : Predicate) (v : Svstate) : (v.next subvl p q).1 =
    { v with
      srcstep := (srcIterate subvl p v).step
      ssubstep := (srcIterate subvl p v).sub
      dststep := (destIterate subvl q v).step
      dsubstep := (destIterate subvl q v).sub } := rfl

end Sys2Proof.Machine
end

