-- ==== Sys2Proof/Laws/Exec.lean ====
section
/-! SUPPORT. What an instruction and a step can do, said once. -/

namespace Sys2Proof.Machine

/-- A pseudo-op does what its expansion does (spec/30_encoding.md R84, R85). -/
theorem exec_expand (i : Instr) (s : State) : exec i.expand s = exec i s := by
  cases i <;> rfl

/-- The machine's instructions are those of the recommended parameters. -/
theorem exec_eq_execWith (i : Instr) (s : State) : exec i s = execWith Config.recommended i s := by
  cases i <;> rfl

/-- The machine's step is that of the recommended parameters. -/
theorem step_eq_stepWith (s : State) : step s = stepWith Config.recommended s := by
  have h : exec = execWith Config.recommended := funext fun i => funext fun s => exec_eq_execWith i s
  rw [step, h, stepWith]

/-- Every instruction is a form of setvl or a form of svstep. -/
theorem execWith_forms (c : Config.Parameters) (i : Instr) (s : State) :
    (∃ rc rt ra svi ms vs vf, execWith c i s = runSetvl c rc rt ra svi ms vs vf s) ∨
      ∃ rc rt svi vf, execWith c i s = runSvstep rc rt svi vf s := by
  cases i with
  | setvl rt ra svi ms vs vf => exact .inl ⟨false, rt, ra, svi, ms, vs, vf, rfl⟩
  | setvlRc rt ra svi ms vs vf => exact .inl ⟨true, rt, ra, svi, ms, vs, vf, rfl⟩
  | svstep rt svi vf => exact .inr ⟨false, rt, svi, vf, rfl⟩
  | svstepRc rt svi vf => exact .inr ⟨true, rt, svi, vf, rfl⟩
  | setvli svi => exact .inl ⟨false, 0, 0, svi, false, true, false, rfl⟩
  | setvliRc svi => exact .inl ⟨true, 0, 0, svi, false, true, false, rfl⟩
  | setmvli svi => exact .inl ⟨false, 0, 0, svi, true, false, false, rfl⟩
  | setmvliRc svi => exact .inl ⟨true, 0, 0, svi, true, false, false, rfl⟩
  | getvl rt => exact .inl ⟨false, rt, 0, 0, false, false, false, rfl⟩
  | getvlRc rt => exact .inl ⟨true, rt, 0, 0, false, false, false, rfl⟩

/-- What a completed instruction leaves: setvl's writes or svstep's, and the pc moved by 4. -/
theorem execWith_next_cases (c : Config.Parameters) (i : Instr) (s t : State) (h : execWith c i s = .next t) : Safety.CanAdvance s ∧
    ((∃ rc rt ra svi ms vs vf, setvlTraps c svi ms = false ∧
        t = (setvlState rc rt ra svi ms vs vf s).setPc (s.pc + 4)) ∨
      ∃ rc rt svi vf e, stepEffect svi vf s = .ok e ∧ t = (stepState rc rt e s).setPc (s.pc + 4)) := by
  rcases execWith_forms c i s with ⟨rc, rt, ra, svi, ms, vs, vf, e⟩ | ⟨rc, rt, svi, vf, e⟩
  · obtain ⟨h1, h2, h3⟩ := (runSetvl_eq_next rc rt ra svi ms vs vf s c t).1 (e ▸ h)
    exact ⟨h2, .inl ⟨rc, rt, ra, svi, ms, vs, vf, h1, h3⟩⟩
  · obtain ⟨x, h1, h2, h3⟩ := (runSvstep_eq_next rc rt s svi vf t).1 (e ▸ h)
    exact ⟨h2, .inr ⟨rc, rt, svi, vf, x, h1, h3⟩⟩

/-- A step that answers a next state fetched an instruction at an aligned pc and ran it. -/
theorem stepWith_next_cases (c : Config.Parameters) (s t : State) (h : stepWith c s = .next t) :
    ∃ i, fetch c s = .instr i ∧ s.pc.toNat % 4 = 0 ∧ execWith c i s = .next t := by
  unfold stepWith at h
  cases hf : fetch c s with
  | instr i =>
    rw [hf] at h
    refine ⟨i, rfl, ?_, h⟩
    unfold fetch at hf
    split at hf
    · cases hf
    · omega
  | fault f => rw [hf] at h; cases h
  | refused r => rw [hf] at h; cases h

end Sys2Proof.Machine
end

