-- ==== Sys2Proof/Laws/Memory.lean ====
section
/-! SUPPORT. What the memory operations do: reads after writes, and the canonical form they keep. -/

namespace Sys2Proof.Machine

/-- A written byte reads as what was written. -/
theorem Memory.read_write_same (m : Memory) (x : Nat) (v : Byte) : (m.write x v).read x = some v := by
  induction m with
  | nil => simp [Memory.write, Memory.read]
  | cons c m ih =>
    obtain ⟨a, b⟩ := c
    by_cases hlt : x < a
    · simp [Memory.write, Memory.read, hlt]
    · by_cases heq : x = a
      · simp [Memory.write, Memory.read, heq]
      · simp [Memory.write, Memory.read, hlt, heq, ih]

/-- Writing one byte leaves every other address. -/
theorem Memory.read_write_other (m : Memory) (x y : Nat) (v : Byte) (h : y ≠ x) :
    (m.write x v).read y = m.read y := by
  induction m with
  | nil => simp [Memory.write, Memory.read, h]
  | cons c m ih =>
    obtain ⟨a, b⟩ := c
    by_cases hlt : x < a
    · simp [Memory.write, Memory.read, hlt, h]
    · by_cases heq : x = a
      · subst heq
        simp [Memory.write, Memory.read, h]
      · simp [Memory.write, Memory.read, hlt, heq, ih]

/-- The addresses listed after a write: the old ones and the one written. -/
theorem Memory.mem_write (m : Memory) (x : Nat) (v : Byte) (c : Host.Cell) (h : c ∈ m.write x v) :
    c = (x, v) ∨ c ∈ m := by
  induction m with
  | nil => exact .inl (by simpa [Memory.write] using h)
  | cons d m ih =>
    obtain ⟨a, b⟩ := d
    simp only [Memory.write] at h
    split at h
    · simpa using h
    · split at h
      · rcases List.mem_cons.1 h with rfl | h
        · exact .inl rfl
        · exact .inr (List.mem_cons_of_mem _ h)
      · rcases List.mem_cons.1 h with rfl | h
        · exact .inr List.mem_cons_self
        · exact (ih h).imp id (List.mem_cons_of_mem _)

/-- A write inside the address space keeps the canonical form. -/
theorem Memory.write_wf (m : Memory) (x : Nat) (v : Byte) (h : m.wf) (hx : x < 2 ^ 64) : (m.write x v).wf := by
  refine ⟨?_, fun c hc => ?_⟩
  · have hp := h.1
    clear h
    induction m with
    | nil => simp [Memory.write]
    | cons d m ih =>
      obtain ⟨a, b⟩ := d
      obtain ⟨hd, hm⟩ := List.pairwise_cons.1 hp
      simp only [Memory.write]
      split
      · rename_i hlt
        refine List.pairwise_cons.2 ⟨fun c hc => ?_, hp⟩
        rcases List.mem_cons.1 hc with rfl | hc
        · exact hlt
        · exact lt_trans hlt (hd c hc)
      · split
        · rename_i heq
          subst heq
          exact List.pairwise_cons.2 ⟨hd, hm⟩
        · refine List.pairwise_cons.2 ⟨fun c hc => ?_, ih hm⟩
          rcases Memory.mem_write m x v c hc with rfl | hc
          · simp only
            omega
          · exact hd c hc
  · rcases Memory.mem_write m x v c hc with rfl | hc
    · exact hx
    · exact h.2 c hc

/-- Laying bytes from an address on keeps the canonical form. -/
theorem Memory.writeBytes_wf (bs : List Byte) (m : Memory) (pc : Word) (k : Nat) (h : m.wf) :
    (m.writeBytes pc k bs).wf := by
  induction bs generalizing m k with
  | nil => exact h
  | cons b bs ih => exact ih _ _ (Memory.write_wf m _ b h (BitVec.isLt _))

/-- Loading text keeps the canonical form. -/
theorem State.loadText_wf (c : Config.Parameters) (s : State) (base : Word) (text : List InstrWord) (h : s.mem.wf) :
    (s.loadText c base text).mem.wf :=
  Memory.writeBytes_wf _ _ _ _ h

/-- Four bytes are read exactly when each of the four addresses lists one. -/
theorem Memory.readBytes_eq_some (m : Memory) (pc : Word) (bs : List Byte) :
    m.readBytes pc = some bs ↔
      ∃ b0 b1 b2 b3, m.read (byteAddress pc 0) = some b0 ∧ m.read (byteAddress pc 1) = some b1 ∧
        m.read (byteAddress pc 2) = some b2 ∧ m.read (byteAddress pc 3) = some b3 ∧ bs = [b0, b1, b2, b3] := by
  unfold Memory.readBytes
  cases m.read (byteAddress pc 0) <;> cases m.read (byteAddress pc 1) <;> cases m.read (byteAddress pc 2) <;>
    cases m.read (byteAddress pc 3) <;> simp [eq_comm]

end Sys2Proof.Machine
end

