-- ==== Sys2Proof/Laws/Launch.lean ====
section
/-! SUPPORT. What laying bytes and launching a text leave in memory. -/

namespace Sys2Proof.Machine

/-- An address inside the space is not wrapped. -/
theorem byteAddress_of_lt (pc : Word) (k : Nat) (h : pc.toNat + k < 2 ^ 64) : byteAddress pc k = pc.toNat + k := by
  simp only [byteAddress, BitVec.toNat_add, BitVec.toNat_ofNat]
  omega

/-- Laid bytes are read at their addresses, and every other address as before, where the bytes end inside the address
space. -/
theorem Memory.read_writeBytes (bs : List Byte) (m : Memory) (pc : Word) (k a : Nat)
    (h : pc.toNat + k + bs.length ≤ 2 ^ 64) : (m.writeBytes pc k bs).read a =
      if pc.toNat + k ≤ a ∧ a < pc.toNat + k + bs.length then bs[a - (pc.toNat + k)]? else m.read a := by
  induction bs generalizing m k with
  | nil =>
    rw [if_neg (by simp)]
    rfl
  | cons b bs ih =>
    simp only [List.length_cons] at h ⊢
    rw [Memory.writeBytes, ih _ _ (by omega), byteAddress_of_lt _ _ (by omega)]
    by_cases ha : a = pc.toNat + k
    · subst ha
      rw [if_neg (by omega), if_pos (by omega), Memory.read_write_same]
      simp
    · rw [Memory.read_write_other _ _ _ _ ha]
      by_cases hin : pc.toNat + (k + 1) ≤ a ∧ a < pc.toNat + (k + 1) + bs.length
      · rw [if_pos hin, if_pos (by omega), show a - (pc.toNat + k) = a - (pc.toNat + (k + 1)) + 1 by omega]
        rfl
      · rw [if_neg hin, if_neg (by omega)]

/-- A text of n words is 4 n bytes. -/
theorem textBytes_length (c : Config.Parameters) (text : List InstrWord) :
    (textBytes c text).length = 4 * text.length := by
  have four : ∀ w, (bytesOfWord c.insnEndian w).length = 4 := fun w => by
    unfold bytesOfWord
    split <;> rfl
  induction text with
  | nil => rfl
  | cons w ws ih =>
    simp only [textBytes, List.flatMap_cons, List.length_append, List.length_cons, four] at ih ⊢
    omega

/-- The four bytes of word k of a text. -/
theorem textBytes_word (c : Config.Parameters) (text : List InstrWord) (k j : Nat) (hk : k < text.length) (hj : j < 4) :
    (textBytes c text)[4 * k + j]? = (bytesOfWord c.insnEndian text[k])[j]? := by
  have four : ∀ w, (bytesOfWord c.insnEndian w).length = 4 := fun w => by
    unfold bytesOfWord
    split <;> rfl
  induction text generalizing k with
  | nil => simp at hk
  | cons w ws ih =>
    cases k with
    | zero => simp [textBytes, List.getElem?_append_left, four, hj]
    | succ k =>
      have hlen := four w
      simp only [textBytes, List.flatMap_cons, List.getElem_cons_succ] at ih ⊢
      rw [List.getElem?_append_right (by omega), hlen, show 4 * (k + 1) + j - 4 = 4 * k + j by omega]
      exact ih k (by simpa using hk)

/-- The memory of a launch whose text ends inside the address space: the text's bytes at its addresses, nothing else. -/
theorem State.launch_read (c : Config.Parameters) (l : Launch) (s : State) (h : l.textEnd ≤ 2 ^ 64) (a : Nat) :
    (s.launch c l).mem.read a =
      if l.base.toNat ≤ a ∧ a < l.textEnd then (textBytes c l.text)[a - l.base.toNat]? else none := by
  have hl := textBytes_length c l.text
  have := Memory.read_writeBytes (textBytes c l.text) [] l.base 0 a (by rw [hl]; exact h)
  simp only [hl, Nat.add_zero] at this
  exact this

end Sys2Proof.Machine
end

