-- ==== Sys2Proof/WellFormed.lean ====
section
/-! DEFINITION. Which instruction terms the spec gives an encoding with a defined meaning. The fields' types hold the
widths; what remains is the SVi selector of svstep (spec/30_encoding.md R77, R79) and getvl's register (R85,
41_setvl.md R145). -/

namespace Sys2Proof

/-- The svstep selector values with a defined meaning: 0, 1 to 4, 5 to 8, 12 to 15 (R77). -/
def definedSelector (svi : BitVec 7) : Bool :=
  decide (svi.toNat ≤ 8) || (decide (12 ≤ svi.toNat) && decide (svi.toNat ≤ 15))

/-- Well-formed instructions. A `svstep` with a reserved selector is a word the decoder reads (R86) and the machine
traps on (R114): it is not well formed. A `getvl` names a register other than the field value 0 (R145). -/
def WellFormed : Instr → Bool
  | .setvl _ _ _ _ _ _ => true
  | .setvlRc _ _ _ _ _ _ => true
  | .svstep _ svi _ => definedSelector svi
  | .svstepRc _ svi _ => definedSelector svi
  | .setvli _ => true
  | .setvliRc _ => true
  | .setmvli _ => true
  | .setmvliRc _ => true
  | .getvl rt => rt != 0
  | .getvlRc rt => rt != 0

end Sys2Proof
end

