-- ==== Sys2Proof/Laws/PerInstr.lean ====
section
/-! SUPPORT. The statement made per instruction: the form of an encoded word. -/

namespace Sys2Proof.Laws.EncodeForm

/-- An instruction's bytes are four, and its word carries PO_SVL and the XO of setvl or of svstep
(spec/30_encoding.md R70 to R74). -/
def Statement (i : Instr) : Prop :=
  ∀ c : Config.Parameters, (encode c i).length = 4 ∧ (msb0 (encodeWord c i) 0 5 : BitVec 6) = c.poSvl ∧
    ((msb0 (encodeWord c i) 26 30 : BitVec 5) = c.xoSetvl ∨ (msb0 (encodeWord c i) 26 30 : BitVec 5) = c.xoSvstep)

/-- An instruction's bytes are four. -/
theorem encode_length (c : Config.Parameters) (i : Instr) : (encode c i).length = 4 := by
  unfold encode bytesOfWord
  split <;> rfl

/-- The form of a setvl word. -/
theorem setvlWord_form (c : Config.Parameters) (rt ra : RegNum) (svi : BitVec 7) (ms vs vf rc : Bool) :
    (msb0 (setvlWord c rt ra svi ms vs vf rc) 0 5 : BitVec 6) = c.poSvl ∧
      (msb0 (setvlWord c rt ra svi ms vs vf rc) 26 30 : BitVec 5) = c.xoSetvl := by
  constructor <;>
  · apply BitVec.eq_of_getLsbD_eq
    intro k hk
    simp only [msb0, setvlWord, BitVec.getLsbD_extractLsb', BitVec.getLsbD_append]
    interval_cases k <;> simp

/-- The form of a svstep word. -/
theorem svstepWord_form (c : Config.Parameters) (rt : RegNum) (svi : BitVec 7) (vf rc : Bool) :
    (msb0 (svstepWord c rt svi vf rc) 0 5 : BitVec 6) = c.poSvl ∧
      (msb0 (svstepWord c rt svi vf rc) 26 30 : BitVec 5) = c.xoSvstep := by
  constructor <;>
  · apply BitVec.eq_of_getLsbD_eq
    intro k hk
    simp only [msb0, svstepWord, BitVec.getLsbD_extractLsb', BitVec.getLsbD_append]
    interval_cases k <;> simp

theorem of_setvlWord (i : Instr) (rt ra : RegNum) (svi : BitVec 7) (ms vs vf rc : Bool)
    (h : ∀ c, encodeWord c i = setvlWord c rt ra svi ms vs vf rc) : Statement i := by
  intro c
  obtain ⟨h1, h2⟩ := setvlWord_form c rt ra svi ms vs vf rc
  exact ⟨Laws.EncodeForm.encode_length c i, h c ▸ h1, .inl (h c ▸ h2)⟩

theorem of_svstepWord (i : Instr) (rt : RegNum) (svi : BitVec 7) (vf rc : Bool)
    (h : ∀ c, encodeWord c i = svstepWord c rt svi vf rc) : Statement i := by
  intro c
  obtain ⟨h1, h2⟩ := svstepWord_form c rt svi vf rc
  exact ⟨Laws.EncodeForm.encode_length c i, h c ▸ h1, .inr (h c ▸ h2)⟩

theorem setvl (rt ra : RegNum) (svi : BitVec 7) (ms vs vf : Bool) : Statement (.setvl rt ra svi ms vs vf) :=
  of_setvlWord _ rt ra svi ms vs vf false (fun _ => rfl)

theorem setvlRc (rt ra : RegNum) (svi : BitVec 7) (ms vs vf : Bool) : Statement (.setvlRc rt ra svi ms vs vf) :=
  of_setvlWord _ rt ra svi ms vs vf true (fun _ => rfl)

theorem svstep (rt : RegNum) (svi : BitVec 7) (vf : Bool) : Statement (.svstep rt svi vf) :=
  of_svstepWord _ rt svi vf false (fun _ => rfl)

theorem svstepRc (rt : RegNum) (svi : BitVec 7) (vf : Bool) : Statement (.svstepRc rt svi vf) :=
  of_svstepWord _ rt svi vf true (fun _ => rfl)

theorem setvli (svi : BitVec 7) : Statement (.setvli svi) :=
  of_setvlWord _ 0 0 svi false true false false (fun _ => rfl)

theorem setvliRc (svi : BitVec 7) : Statement (.setvliRc svi) :=
  of_setvlWord _ 0 0 svi false true false true (fun _ => rfl)

theorem setmvli (svi : BitVec 7) : Statement (.setmvli svi) :=
  of_setvlWord _ 0 0 svi true false false false (fun _ => rfl)

theorem setmvliRc (svi : BitVec 7) : Statement (.setmvliRc svi) :=
  of_setvlWord _ 0 0 svi true false false true (fun _ => rfl)

theorem getvl (rt : RegNum) : Statement (.getvl rt) :=
  of_setvlWord _ rt 0 0 false false false false (fun _ => rfl)

theorem getvlRc (rt : RegNum) : Statement (.getvlRc rt) :=
  of_setvlWord _ rt 0 0 false false false true (fun _ => rfl)

end Sys2Proof.Laws.EncodeForm
end

