-- ==== Sys2Proof/Tests/Slice0.lean ====
section
/-! SUPPORT. Tests, expected results from the spec's own vectors (spec/95_test_vectors.md) and encodings; then, for each
statement that has hypotheses, a concrete state and operands that meet them. -/

namespace Sys2Proof.Tests

open Sys2Proof.Machine Sys2Proof.Safety

/-! ### Well-formedness: each check refuses an ill-formed term -/

theorem test_reserved_selector_ill_formed : WellFormed (.svstep 3 9 false) = false := by decide
theorem test_reserved_selector_rc_ill_formed : WellFormed (.svstepRc 3 28 true) = false := by decide
theorem test_getvl_no_register_ill_formed : WellFormed (.getvl 0) = false := by decide
theorem test_getvlRc_no_register_ill_formed : WellFormed (.getvlRc 0) = false := by decide
theorem test_defined_selectors_well_formed :
    ([0, 1, 4, 5, 8, 12, 15].all fun n => WellFormed (.svstep 3 n false)) = true := by decide

/-- The decoder with the recommended opcode numbers (log 1). -/
abbrev dec (w : InstrWord) : Except DecodeError Instr := decodeWord Config.recommended w

/-- The encoder with the recommended opcode numbers (log 1). -/
abbrev enc (i : Instr) : InstrWord := encodeWord Config.recommended i

/-! ### Decoding: words written out from the layouts of R71, R72 and R74, PO RT RA SVi ms vs vf XO Rc -/

theorem test_decode_setvl : dec 0b010110_00110_00101_0000000_0_1_0_11011_0 = .ok (.setvl 6 5 0 false true false) := by
  decide
theorem test_decode_setvlRc : dec 0b010110_00100_00011_0111111_1_1_0_11011_1 = .ok (.setvlRc 4 3 63 true true false) := by
  decide
theorem test_decode_setvl_vf : dec 0b010110_00000_00000_0000011_1_1_1_11011_0 = .ok (.setvl 0 0 3 true true true) := by
  decide
theorem test_decode_svstep : dec 0b010110_00011_00000_0000101_0_0_0_10011_0 = .ok (.svstep 3 5 false) := by decide
theorem test_decode_svstepRc : dec 0b010110_01010_00000_0000000_0_0_1_10011_1 = .ok (.svstepRc 10 0 true) := by
  decide
theorem test_decode_setvli : dec 0x58000EB6 = .ok (Instr.setvli 7).expand := by decide
theorem test_decode_setvliRc : dec 0x58000EB7 = .ok (Instr.setvliRc 7).expand := by decide
theorem test_decode_setmvli : dec 0x58000F36 = .ok (Instr.setmvli 7).expand := by decide
theorem test_decode_setmvliRc : dec 0x58000F37 = .ok (Instr.setmvliRc 7).expand := by decide
theorem test_decode_getvl : dec 0x58A00036 = .ok (Instr.getvl 5).expand := by decide
theorem test_decode_getvlRc : dec 0x58A00037 = .ok (Instr.getvlRc 5).expand := by decide
theorem test_decode_all_fields_ones : dec 0x5BFFFFF6 = .ok (.setvl 31 31 127 true true true) := by decide
theorem test_decode_reserved_ra : dec 0x58010066 = .error (.reservedBits 0x58010066) := by decide
theorem test_decode_reserved_bit_24 : dec 0x580000E6 = .error (.reservedBits 0x580000E6) := by decide
theorem test_decode_other_xo : dec 0x58000000 = .error (.undefinedUnderPo 0x58000000) := by decide
theorem test_decode_other_po : dec 0x7C0802A6 = .error (.notInScope 0x7C0802A6) := by decide
/-- "LE bytes" of the E4 instruction, B7 7F 83 58. -/
theorem test_decode_bytes : decode Config.recommended [0xB7, 0x7F, 0x83, 0x58] = .ok (.setvlRc 4 3 63 true true false, []) := by decide
theorem test_bytes_big : bytesOfWord .big 0x58837FB7 = [0x58, 0x83, 0x7F, 0xB7] := by decide
/-- The opcode numbers and the byte order are arguments (R5, R53, R74): the same word with PO 23, fetched big-endian. -/
theorem test_decode_other_parameters :
    decode { Config.recommended with poSvl := 23, insnEndian := .big } [0x5C, 0x83, 0x7F, 0xB7] =
      .ok (.setvlRc 4 3 63 true true false, []) := by decide
theorem test_table_word : decodeTableWord 32 0x58000027 = some (.svstepRc 0 0 false) := by decide

/-! ### Encoding and the assembler -/

theorem test_encode_setvl : enc (.setvl 0 0 3 true true true) = 0x580007F6 := by decide
theorem test_encode_svstepRc : enc (.svstepRc 10 0 true) = 0x59400067 := by decide
theorem test_encode_svstep_pack : enc (.svstep 3 15 true) = 0x58601E66 := by decide
/-- `setvl. 4,3,64,0,1,1` (V13): the third operand is the length, the last three are vf, vs, ms. -/
theorem test_asm_setvl : (asmSetvl true 4 3 64 false true true).map enc = some 0x58837FB7 := by decide
theorem test_asm_setvli : (asmSetvli true 12).map enc = some 0x580016B7 := by decide
theorem test_asm_setmvli : (asmSetmvli false 65).map enc = some 0x58008136 := by decide
theorem test_asm_svstep : enc (asmSvstep false 3 13 false) = 0x58601A26 := by decide
theorem test_asm_length_zero : lengthField 0 = none := by decide

/-! ### SVSTATE's layout: the value of V4 -/

def sample : Svstate :=
  { State.reset.svstate with
    maxvl := 8, vl := 5, srcstep := 2, dststep := 2, svme := 3, hphint := 4, rmpst := true, vfirst := true }

theorem test_layout_to_word : sample.toWord = 0x1014102000060013 := by decide
theorem test_layout_of_word : Svstate.ofWord 0x1014102000060013 = sample := by decide
/-- dsubstep is the more significant of the two substeps (S10). -/
theorem test_layout_substeps : (Svstate.ofWord 0x0810101900000000).dsubstep = 2 ∧
    (Svstate.ofWord 0x0810101900000000).ssubstep = 1 := by decide

/-! ### One step of each instruction, by the spec's vectors -/

/-- The machine after reset but for the value of SVSTATE. -/
def start (svstate : Word) : State :=
  State.reset.setSvstate (Svstate.ofWord svstate)

/-- What one step leaves when a word is placed at the pc: SVSTATE and one GPR. -/
def after (s : State) (w : Nat) (r : RegNum) : Option (Word × Word) :=
  (nextState? (step (s.withFetchWord 32 w))).map fun t => (t.readSvstate, t.readGpr r)

/-- CR0 after one step, as its four bits. -/
def cr0After (s : State) (w : Nat) : Option (BitVec 4) :=
  (nextState? (step (s.withFetchWord 32 w))).map fun t => t.cr0.toBits

/-- CR0.EQ after one step. -/
def eqAfter (s : State) (w : Nat) : Option Bool :=
  (nextState? (step (s.withFetchWord 32 w))).map fun t => t.cr0.eq

/-- V24: RT = RA, the register is read before it is written. -/
theorem test_setvl_rt_is_ra :
    after ((start 0x1000000000000000).setGpr 7 3) 0x58E700B6 7 = some (0x100C000000000000, 3) := by decide
/-- V11: VL from CTR. -/
theorem test_setvl_ctr :
    after { start 0x8000000000000000 with ctr := 20 } 0x586000B6 3 = some (0x8050000000000000, 20) := by decide
/-- V9: the largest RA; RT = 0, so no GPR is written. -/
theorem test_setvlRc_unsigned :
    after ((start 0x8000000000000000).setGpr 5 (BitVec.allOnes 64)) 0x580500B7 0 = some (0x8100000000000000, 0) ∧
      cr0After ((start 0x8000000000000000).setGpr 5 (BitVec.allOnes 64)) 0x580500B7 = some 0b0101 := by decide
/-- V22: RA equal to MVL is no overflow. -/
theorem test_setvlRc_equal :
    cr0After ((start 0x8000000000000000).setGpr 5 64) 0x58C500B7 = some 0b0100 := by decide
/-- V2. -/
theorem test_setvli : (nextState? (exec (.setvli 7) (start 0x1000000000000000))).map State.readSvstate =
    some 0x1020000000000000 := by decide
/-- V3, and V25: zero length with overflow. -/
theorem test_setvliRc : cr0After (start 0x0800000000000000) 0x58000EB7 = some 0b0101 ∧
    cr0After (start 0) 0x580000B7 = some 0b0011 := by decide
/-- V26: the largest legal MVL. -/
theorem test_setmvli : (nextState? (exec (.setmvli 63) (start 0x1020000000000000))).map State.readSvstate =
    some 0x8020000000000000 := by decide
/-- V19: one above it. -/
theorem test_setmvli_trap : faultOf? (step ((start 0x1020000000000000).withFetchWord 32 0x58008136)) =
    some (.illegalInstruction 0) := by decide
/-- The other reading of conflict C2, VL_LIMIT = 127 (R138, D5): the same form sets maxvl 65; 128 still traps. -/
theorem test_setmvli_other_limit :
    (nextState? (execWith { Config.recommended with vlLimit := 127, stepLimit := 126 } (.setmvli 64)
      (start 0x1020000000000000))).map State.readSvstate = some 0x8220000000000000 ∧
    faultOf? (execWith { Config.recommended with vlLimit := 127, stepLimit := 126 } (.setmvli 127)
      (start 0x1020000000000000)) = some (.illegalInstruction 0) := by decide
/-- V5: the old VL is cut, RMpst and vfirst are cleared. -/
theorem test_setmvliRc : after (start 0x1020000000000003) 0x58000737 0 = some (0x0810000000000000, 0) ∧
    cr0After (start 0x1020000000000003) 0x58000737 = some 0b0101 := by decide
/-- V4, without Rc: every SVSTATE field kept. -/
theorem test_getvl : after (start 0x1014102000060013) 0x58A00036 5 = some (0x1014102000060013, 5) := by decide
/-- V4. -/
theorem test_getvlRc : cr0After (start 0x1014102000060013) 0x58A00037 = some 0b0100 := by decide
/-- S12: SVi = 13 sets unpack. -/
theorem test_svstep_unpack : after (start 0x0810000000000000) 0x58601A26 3 = some (0x0810000000000200, 1) := by decide
/-- S11: dsubstep, with the largest enquiry selector. -/
theorem test_svstep_dsubstep : after (start 0x0810101900000000) 0x58601026 3 = some (0x0810101900000000, 2) := by decide
/-- S17: the source side wraps, the destination side advances. -/
theorem test_svstepRc_sides : after (start 0x0810181000000000) 0x58000067 0 = some (0x0810002000000000, 0) ∧
    eqAfter (start 0x0810181000000000) 0x58000067 = some true := by decide
/-- S6 as a record form, RT = 0: nothing steps, r0 is cleared, EQ reports the present element. -/
theorem test_svstepRc_no_step : after ((start 0x0810101000000000).setGpr 0 9) 0x58000027 0 =
    some (0x0810101000000000, 0) ∧ eqAfter (start 0x0810101000000000) 0x58000027 = some false := by decide

/-! ### Stops -/

/-- S18, S19: the asserts. -/
theorem test_step_vl_zero : faultOf? (exec (.svstep 0 0 true) (start 0x0800000000000000)) =
    some (.svStateInconsistent .vlZero) := by decide
theorem test_step_beyond : faultOf? (exec (.svstep 0 0 true) (start 0x1008306000000000)) =
    some (.svStateInconsistent .srcstepBeyond) := by decide
/-- S20: a reserved selector. -/
theorem test_reserved_selector : faultOf? (step ((start 0x0810000000000000).withFetchWord 32 0x58601226)) =
    some (.illegalInstruction 0) := by decide
/-- S21: reserved bit 23. -/
theorem test_reserved_bit : faultOf? (step ((start 0x0810000000000000).withFetchWord 32 0x58000166)) =
    some (.illegalInstruction 0) := by decide
theorem test_empty_memory : faultOf? (step State.reset) = some (.endOfText 0) := by decide
theorem test_misaligned : refusalOf? (step (State.reset.setPc 2)) = some (.misalignedPc 2) := by decide
theorem test_wrap : refusalOf? (step ((State.reset.setPc 0xFFFFFFFFFFFFFFFC).withFetchWord 32 0x58000036)) =
    some (.pcWrap 0xFFFFFFFFFFFFFFFC) := by decide

/-! ### The iterators with sub-vectors: S25, S26, S27 (SUBVL = 1, vl = 2) -/

/-- One side's position after each of the next steps, with its loopend. -/
def walk (inverted : Bool) : Nat → BitVec 7 → BitVec 2 → List (Nat × Nat × Bool)
  | 0, _, _ => []
  | n + 1, step, sub =>
    let r := iterateSide 1 Predicate.none 2 inverted step sub
    (r.step.toNat, r.sub.toNat, r.loopend) :: walk inverted n r.step r.sub

theorem test_walk_unpacked : walk false 5 0 0 =
    [(0, 1, false), (1, 0, false), (1, 1, false), (0, 0, true), (0, 1, false)] := by decide
theorem test_walk_packed : walk true 5 0 0 =
    [(1, 0, false), (0, 1, false), (1, 1, false), (0, 1, true), (1, 1, false)] := by decide
theorem test_substep_above : (Svstate.ofWord 0x0408000200000000).inconsistency 1 = some .substepAbove := by decide
/-- R33, R167: pack orders the source side and unpack the destination side; from (0,0) both, vl = 2, subvl = 1. -/
theorem test_pack_is_source : ((Svstate.ofWord 0x0408000000000400).next 1 Predicate.none Predicate.none).1 =
    { Svstate.ofWord 0x0408000000000400 with srcstep := 1, dsubstep := 1 } := by decide
theorem test_unpack_is_destination : ((Svstate.ofWord 0x0408000000000200).next 1 Predicate.none Predicate.none).1 =
    { Svstate.ofWord 0x0408000000000200 with dststep := 1, ssubstep := 1 } := by decide
/-- A masked-out element is skipped under non-zeroing (R108): from 0 with element 1 masked out, to 2. -/
theorem test_skip : (iterateSide 0 ⟨false, fun n => n != 1⟩ 4 false 0 0).step = 2 := by decide
theorem test_zeroing_visits : (iterateSide 0 ⟨true, fun n => n != 1⟩ 4 false 0 0).step = 1 := by decide

/-! ### The launch (R231, R232) -/

/-- A text of `getvl r5` and `svstep 3,5,0` at 0x100, entered at its second word. -/
def sampleLaunch : Launch where
  base := 0x100
  text := [0x58A00036, 0x58600A26]
  entry := 1

theorem test_launch : (State.reset.launch Config.recommended sampleLaunch).pc = 0x104 ∧
    (State.reset.launch Config.recommended sampleLaunch).mem =
      [(0x100, 0x36), (0x101, 0x00), (0x102, 0xA0), (0x103, 0x58), (0x104, 0x26), (0x105, 0x0A), (0x106, 0x60),
       (0x107, 0x58)] := by decide

/-! ### Writing SVSTATE (R37) -/

theorem test_write_truncates : (nextState? (State.reset.writeSvstate Config.recommended 0x1024000000000000)).map State.readSvstate =
    some 0x1020000000000000 := by decide
theorem test_write_traps : faultOf? (State.reset.writeSvstate Config.recommended 0x8200000000000000) = some (.illegalInstruction 0) := by
  decide
theorem test_write_reserved : refusalOf? (State.reset.writeSvstate Config.recommended 0x800) = some (.svstateReservedBits 0x800) := by decide

/-! ### The looping context (R30, R31, R34) -/

theorem test_remap_ra : sample.remapShape .ra = some 0 ∧ sample.remapShape .rc = none := by decide
theorem test_hint_groups : sample.hintGroup 3 = some 0 ∧ sample.hintGroup 4 = some 1 := by decide

/-! ### Witnesses: the hypotheses of each statement are met by a concrete state and operands -/

/-- A state in the middle of a loop: maxvl = vl = 4, both steps 1. -/
def midLoop : State := start 0x0810081000000000

/-- The same at the last element. -/
def lastElement : State := start 0x0810183000000000

theorem witness_can_advance : CanAdvance State.reset ∧ CanAdvance midLoop := by decide
/-- The boundary of SetvlCompletesWithTheMinimum and its record form: MVL exactly 64, and the immediate 128 unused. -/
theorem witness_setvl_completes :
    ¬ (true = true ∧ 64 < (63 : BitVec 7).toNat + 1) ∧ ¬ (false = true ∧ 64 < (127 : BitVec 7).toNat + 1) := by decide
theorem witness_setvl_next : (∃ t, exec (.setvl 4 3 63 true true true) State.reset = .next t) ∧
    ∃ t, exec (.setvlRc 0 0 127 false true false) State.reset = .next t := ⟨⟨_, rfl⟩, ⟨_, rfl⟩⟩
/-- SetvlLeavesTheLoopPosition, V18: the VL left is at or below srcstep. -/
theorem witness_vl_below_srcstep :
    (nextState? (exec (.setvl 0 0 1 false true false) (start 0x1020306000000000))).map
      (fun t => decide (t.svstate.vl.toNat ≤ (start 0x1020306000000000).svstate.srcstep.toNat)) = some true := by decide
/-- The same for dststep alone: vl 4, srcstep 0, dststep 3, VL lowered to 2. -/
theorem witness_vl_below_dststep :
    (nextState? (exec (.setvl 0 0 1 false true false) (start 0x1010003000000000))).map
      (fun t => decide (t.svstate.srcstep.toNat < t.svstate.vl.toNat ∧
        t.svstate.vl.toNat ≤ (start 0x1010003000000000).svstate.dststep.toNat)) = some true := by decide
theorem witness_pseudo_ops_next : (∃ t, exec (.setvli 7) State.reset = .next t) ∧
    (∃ t, exec (.setvliRc 7) State.reset = .next t) ∧ (∃ t, exec (.setmvli 7) State.reset = .next t) ∧
    (∃ t, exec (.setmvliRc 7) State.reset = .next t) ∧ (∃ t, exec (.getvl 5) State.reset = .next t) ∧
    ∃ t, exec (.getvlRc 5) State.reset = .next t :=
  ⟨⟨_, rfl⟩, ⟨_, rfl⟩, ⟨_, rfl⟩, ⟨_, rfl⟩, ⟨_, rfl⟩, ⟨_, rfl⟩⟩
theorem witness_mvl_above : 64 < (64 : BitVec 7).toNat + 1 := by decide
theorem witness_mvl_above_faults : (∃ f, exec (.setvl 0 0 64 true false false) State.reset = .fault f) ∧
    ∃ f, exec (.setvlRc 0 0 64 true false false) State.reset = .fault f := ⟨⟨_, rfl⟩, ⟨_, rfl⟩⟩
/-- VlLimitDecidesOnlyTheTrap with the limit 127: above it, at it, and an instruction that sets no MVL. -/
theorem witness_other_limit : 127 < (127 : BitVec 7).toNat + 1 ∧ (126 : BitVec 7).toNat + 1 ≤ 127 ∧
    CanAdvance State.reset ∧ (Instr.setvli 127).expand = .setvl 0 0 127 false true false := by decide
theorem witness_setmvli : (63 : BitVec 7).toNat + 1 ≤ 64 ∧ CanAdvance State.reset := by decide
theorem witness_getvl_in_range : sample.vl.toNat ≤ sample.maxvl.toNat := by decide
theorem witness_unused_field : ¬ (true = true ∧ (1 : RegNum) = 0 ∧ (0 : RegNum) = 0) := by decide
theorem witness_wf : (start 0x1014102000060013).svstate.wf Config.recommended ∧ midLoop.svstate.wf Config.recommended := by decide
/-- The parameters the encoding statements take: the recommended ones, and others. -/
theorem witness_legal : Config.recommended.legal ∧
    { Config.recommended with
      ngpr := 128, poSvl := 23, xoSetvl := 1, xoSvstep := 2, insnEndian := .big, vlLimit := 127, stepLimit := 126 }.legal := by
  decide
/-- The two launch statements: a word of the text, the completed end, and an empty text. -/
theorem witness_launch : sampleLaunch.premises Config.recommended State.reset ∧
    decodeWord Config.recommended sampleLaunch.text[1] = .ok (.svstep 3 5 false) ∧
    sampleLaunch.completed (State.reset.setPc 0x108) ∧
    ({ base := 0, text := [], entry := 0 } : Launch).premises Config.recommended State.reset := by decide
theorem witness_reset_parameters : (Svstate.ofWord Config.recommended.svstateReset).wf Config.recommended := by decide
theorem witness_assembler : 1 ≤ 1 ∧ 1 ≤ 128 ∧ 1 ≤ 128 ∧ 128 ≤ 128 ∧ 128 < 129 := by decide
/-- OtherWordsAreRejectedByName: one word per clause. -/
theorem witness_other_words : (0x7C0802A6 : InstrWord).toNat / 2 ^ 26 ≠ 22 ∧
    (0x58000000 : InstrWord).toNat / 2 ^ 26 = 22 ∧ (0x58000000 : InstrWord).toNat / 2 % 32 = 0 ∧
    (0x58010066 : InstrWord).toNat / 2 % 32 = 19 ∧ (0x58010066 : InstrWord).toNat / 2 ^ 16 % 32 ≠ 0 ∧
    (0x58000166 : InstrWord).toNat / 2 % 32 = 19 ∧ (0x58000166 : InstrWord).toNat / 2 ^ 7 % 4 ≠ 0 := by decide
/-- StepRunsTheDecodedInstruction. -/
theorem witness_fetch : (State.reset.withFetchWord 32 0x58A00036).pc.toNat % 4 = 0 ∧
    (State.reset.withFetchWord 32 0x58A00036).mem.read 0 = some 0x36 ∧
    (State.reset.withFetchWord 32 0x58A00036).mem.read 1 = some 0x00 ∧
    (State.reset.withFetchWord 32 0x58A00036).mem.read 2 = some 0xA0 ∧
    (State.reset.withFetchWord 32 0x58A00036).mem.read 3 = some 0x58 ∧
    decode Config.recommended [0x36, 0x00, 0xA0, 0x58] = .ok (.setvl 5 0 0 false false false, []) := by decide
/-- StepStopsWithoutAnInstruction: misaligned, nothing listed, and the three kinds of word. -/
theorem witness_no_instruction : (State.reset.setPc 2).pc.toNat % 4 ≠ 0 ∧ State.reset.pc.toNat % 4 = 0 ∧
    State.reset.mem.read (State.reset.pc.toNat + 3) = none := by decide
theorem witness_bad_words :
    (State.reset.withFetchWord 32 0x58000166).mem.readBytes 0 = some [0x66, 0x01, 0x00, 0x58] ∧
    decode Config.recommended [0x66, 0x01, 0x00, 0x58] = .error (.reservedBits 0x58000166) ∧
    (State.reset.withFetchWord 32 0x7C0802A6).mem.readBytes 0 = some [0xA6, 0x02, 0x08, 0x7C] ∧
    decode Config.recommended [0xA6, 0x02, 0x08, 0x7C] = .error (.notInScope 0x7C0802A6) ∧
    (State.reset.withFetchWord 32 0x58000000).mem.readBytes 0 = some [0x00, 0x00, 0x00, 0x58] ∧
    decode Config.recommended [0x00, 0x00, 0x00, 0x58] = .error (.undefinedUnderPo 0x58000000) := by decide
/-- StepMovesEachSideByOne, RecordStepReportsTheLastElement: in the middle and at the wrap. -/
theorem witness_step : CanAdvance midLoop ∧ midLoop.svstate.srcstep.toNat < midLoop.svstate.vl.toNat ∧
    midLoop.svstate.dststep.toNat < midLoop.svstate.vl.toNat ∧ midLoop.svstate.ssubstep = 0 ∧
    midLoop.svstate.dsubstep = 0 ∧ lastElement.svstate.srcstep.toNat + 1 = lastElement.svstate.vl.toNat := by decide
theorem witness_svstep_next : (∃ t, exec (.svstep 3 0 true) midLoop = .next t) ∧
    (∃ t, exec (.svstepRc 3 0 true) lastElement = .next t) ∧ (∃ t, exec (.svstep 3 5 false) midLoop = .next t) ∧
    ∃ t, exec (.svstepRc 3 15 false) midLoop = .next t := ⟨⟨_, rfl⟩, ⟨_, rfl⟩, ⟨_, rfl⟩, ⟨_, rfl⟩⟩
/-- InconsistentStepFaults: one state per clause, at the boundary (step = vl). -/
theorem witness_inconsistent : (start 0x0800000000000000).svstate.vl.toNat = 0 ∧
    (start 0x0810200000000000).svstate.srcstep.toNat = (start 0x0810200000000000).svstate.vl.toNat ∧
    (start 0x0810184000000000).svstate.srcstep.toNat < (start 0x0810184000000000).svstate.vl.toNat ∧
    (start 0x0810184000000000).svstate.dststep.toNat = (start 0x0810184000000000).svstate.vl.toNat ∧
    (start 0x0810183400000000).svstate.srcstep.toNat < (start 0x0810183400000000).svstate.vl.toNat ∧
    (start 0x0810183400000000).svstate.dststep.toNat < (start 0x0810183400000000).svstate.vl.toNat ∧
    (start 0x0810183400000000).svstate.dsubstep ≠ 0 := by decide
theorem witness_reserved : (9 : BitVec 7).toNat = 9 ∧ (11 : BitVec 7).toNat = 11 ∧ 16 ≤ (16 : BitVec 7).toNat ∧
    16 ≤ (127 : BitVec 7).toNat := by decide
theorem witness_loop_consistent : (Svstate.ofWord 0x0810081900000000).loopConsistent Config.recommended 2 ∧
    lastElement.svstate.loopConsistent Config.recommended 0 := by decide
theorem witness_positions : (3 : BitVec 7).toNat < (4 : BitVec 7).toNat ∧ (3 : BitVec 2).toNat ≤ (3 : BitVec 2).toNat ∧
    (iterateSide 3 Predicate.none 4 true 3 3).loopend = true ∧
    (iterateSide 3 Predicate.none 4 true 3 2).loopend = false := by decide
/-- IteratorsWalkThePositionsInOrder, MaskedElementsAreSkipped: pack set, unpack clear, vl = 4, subvl = 2. -/
theorem witness_sides : (Svstate.ofWord 0x0810081900000400).srcstep.toNat < (Svstate.ofWord 0x0810081900000400).vl.toNat ∧
    (Svstate.ofWord 0x0810081900000400).dststep.toNat < (Svstate.ofWord 0x0810081900000400).vl.toNat ∧
    (Svstate.ofWord 0x0810081900000400).ssubstep.toNat ≤ (2 : BitVec 2).toNat ∧
    (Svstate.ofWord 0x0810081900000400).dsubstep.toNat ≤ (2 : BitVec 2).toNat ∧
    (Svstate.ofWord 0x0810081900000400).pack = true ∧ (Svstate.ofWord 0x0810081900000400).unpack = false := by decide
theorem witness_skips : (iterateSide 0 ⟨false, fun n => n != 1⟩ 4 false 0 0).loopend = false ∧
    (iterateSide 0 ⟨false, fun _ => false⟩ 4 false 0 0).loopend = true ∧
    (iterateSide 0 ⟨true, fun _ => false⟩ 4 false 0 0).loopend = false := by decide
/-- RepeatedStepsVisitEveryElementOnce: a loop of four at its start, k = vl. -/
theorem witness_full_loop : 1 ≤ 4 ∧ 4 ≤ (start 0x0810000000000001).svstate.vl.toNat ∧
    (start 0x0810000000000001).pc.toNat + 4 * 4 < 2 ^ 64 ∧ (start 0x0810000000000001).svstate.srcstep = 0 ∧
    (start 0x0810000000000001).svstate.dststep = 0 ∧ (start 0x0810000000000001).svstate.ssubstep = 0 ∧
    (start 0x0810000000000001).svstate.dsubstep = 0 := by decide
/-- SvstateWriteTrapsThenTruncates: one value per clause, at the boundary. -/
theorem witness_write : 64 < ({ State.reset.svstate with maxvl := 65 } : Svstate).maxvl.toNat ∧
    ({ State.reset.svstate with maxvl := 64, vl := 64, srcstep := 63, rsvd := 1 } : Svstate).rsvd ≠ 0 ∧
    ({ State.reset.svstate with maxvl := 63, vl := 64, dststep := 63 } : Svstate).vl.toNat ≤ 64 := by decide
theorem witness_remap_off : ({ sample with svme := 0 } : Svstate).svme = 0 := by decide
theorem witness_hint : sample.hphint ≠ 0 ∧ State.reset.svstate.hphint = 0 := by decide
/-- StepKeepsTheInvariant. -/
theorem witness_invariant : Inv Config.recommended (midLoop.withFetchWord 32 0x58000067) := by decide
theorem witness_invariant_step : ∃ t, step (midLoop.withFetchWord 32 0x58A00036) = .next t := ⟨_, rfl⟩
/-- InstructionsStopOnlyByTheseNames: each kind of stop occurs. -/
theorem witness_stops : (∃ f, exec (.svstep 0 0 true) State.reset = .fault f) ∧
    ∃ r, exec (.getvl 1) (State.reset.setPc 0xFFFFFFFFFFFFFFFC) = .refused r := ⟨⟨_, rfl⟩, ⟨_, rfl⟩⟩
/-- RunsMoveStraightOnAndEnd: a one-word text with nothing after it. -/
theorem witness_run : (∃ t, Sys2Proof.core.run 1 (State.reset.withFetchWord 32 0x58A00036) = .next t) ∧
    ∀ a, 0 + 4 * 1 ≤ a → (State.reset.withFetchWord 32 0x58A00036).mem.read a = none := by
  refine ⟨⟨_, rfl⟩, fun a ha => ?_⟩
  have h : (State.reset.withFetchWord 32 0x58A00036).mem = [(0, 0x36), (1, 0), (2, 0xA0), (3, 0x58)] := by decide
  rw [h]
  simp only [Memory.read]
  repeat rw [if_neg (by omega)]

end Sys2Proof.Tests
end

section
/-! PROOFS. SVSTATE as a 64-bit value: its fields and the value determine each other (spec/10_state.md R25). -/

namespace Sys2Proof.Machine

/-- Concatenation on integers: the upper part stands at the shift of the lower part's width. -/
theorem toNat_append_eq_add {m n : Nat} (x : BitVec m) (y : BitVec n) :
    (x ++ y).toNat = x.toNat * 2 ^ n + y.toNat := by
  rw [BitVec.toNat_append, ← Nat.shiftLeft_add_eq_or_of_lt y.isLt, Nat.shiftLeft_eq]

theorem bitVec_append_inj {m n : Nat} {x x' : BitVec m} {y y' : BitVec n} :
    x ++ y = x' ++ y' ↔ x = x' ∧ y = y' := by
  constructor
  · intro h
    have hhigh := congrArg (BitVec.extractLsb' n m) h
    have hlow := congrArg (BitVec.extractLsb' 0 n) h
    simp only [BitVec.extractLsb'_append_eq_left, BitVec.extractLsb'_append_eq_right] at hhigh hlow
    exact ⟨hhigh, hlow⟩
  · rintro ⟨rfl, rfl⟩
    rfl

theorem ofBool_inj {a b : Bool} : BitVec.ofBool a = BitVec.ofBool b ↔ a = b := by
  cases a <;> cases b <;> decide

theorem msb0_toNat {n : Nat} (x : BitVec n) (a b : Nat) :
    (msb0 x a b).toNat = x.toNat / 2 ^ (n - 1 - b) % 2 ^ (b + 1 - a) := by
  rw [msb0, BitVec.extractLsb'_toNat, Nat.shiftRight_eq_div_pow]

/-- An MSB0 bit is the MSB0 slice of width 1. -/
theorem msb0Bit_toNat {n : Nat} (x : BitVec n) (a : Nat) :
    (msb0Bit x a).toNat = x.toNat / 2 ^ (n - 1 - a) % 2 ^ 1 := by
  rw [msb0Bit, ← BitVec.testBit_toNat, Nat.toNat_testBit, pow_one]

/-- The bits from `i` up, followed by the `j` bits just below them, are the bits from `k` up. -/
theorem div_mul_add_mod_pow (x j k : Nat) {i : Nat} (h : i = k + j) :
    x / 2 ^ i * 2 ^ j + x / 2 ^ k % 2 ^ j = x / 2 ^ k := by
  rw [h, pow_add, ← Nat.div_div_eq_div_mul, Nat.div_add_mod']

/-- The value determines the fields: a concatenation of fixed widths determines its parts. -/
theorem Svstate.toWord_inj {v v' : Svstate} : v.toWord = v'.toWord ↔ v = v' := by
  cases v
  cases v'
  refine bitVec_append_inj.trans ?_
  simp only [bitVec_append_inj, ofBool_inj, Svstate.mk.injEq, and_assoc]

/-- The table's rows leave no gap: joined from the top down, each field brings in the bits just below the ones before. -/
@[simp] theorem Svstate.toWord_ofWord (w : Word) : (Svstate.ofWord w).toWord = w := by
  apply BitVec.eq_of_toNat_eq
  have htop : w.toNat / 2 ^ 57 % 2 ^ 7 = w.toNat / 2 ^ 57 := by omega
  simp only [Svstate.toWord, toNat_append_eq_add, BitVec.toNat_ofBool]
  simp only [Svstate.ofWord, msb0_toNat, msb0Bit_toNat, Nat.reduceAdd, Nat.reduceSub, htop, div_mul_add_mod_pow,
    pow_zero, Nat.div_one, Nat.div_add_mod']

@[simp] theorem Svstate.ofWord_toWord (v : Svstate) : Svstate.ofWord v.toWord = v :=
  Svstate.toWord_inj.1 (Svstate.toWord_ofWord v.toWord)

/-- Settles O42: the sum is the concatenation of `toWord` on integers. -/
theorem svstateFieldsStandAtTheirBits : Obligations.SvstateFieldsStandAtTheirBits := by
  refine ⟨fun v => ?_, Svstate.ofWord_toWord, Svstate.toWord_ofWord⟩
  simp only [Svstate.toWord, toNat_append_eq_add, BitVec.toNat_ofBool]
  ring

end Sys2Proof.Machine
end

section
/-! PROOFS. One side of a step under any predicate (spec/40_svstep.md R106 to R108): which element the skip loop comes to,
and what the iterator makes of it. -/

namespace Sys2Proof.Machine

open Sys2Proof.Safety

/-- The skip loop's test is `Stops`. -/
theorem stops_iff (p : Predicate) (k : Nat) : (p.zeroing || p.mask k) = true ↔ Stops p k := by
  simp [Stops]

/-- The skip loop comes to the first element within its reach that stops it. -/
theorem skipLoop_firstStop (p : Predicate) (left step k : Nat) (hlt : step < k) (hle : k ≤ step + left)
    (hstop : Stops p k) (hfirst : ∀ j, step < j → j < k → ¬ Stops p j) : skipLoop p left step = (k, false) := by
  induction left generalizing step with
  | zero => omega
  | succ n ih =>
    rw [skipLoop]
    by_cases hk : k = step + 1
    · rw [if_pos ((stops_iff p _).2 (hk ▸ hstop)), hk]
    · have hskip : ¬ Stops p (step + 1) := hfirst _ (by omega) (by omega)
      rw [if_neg (mt (stops_iff p _).1 hskip)]
      exact ih (step + 1) (by omega) (by omega) fun j hj => hfirst j (by omega)

/-- Where no element within its reach stops it, the skip loop comes to the end. -/
theorem skipLoop_noStop (p : Predicate) (left step : Nat) (hnone : ∀ k, step < k → k ≤ step + left → ¬ Stops p k) :
    skipLoop p left step = (0, true) := by
  induction left generalizing step with
  | zero => rfl
  | succ n ih =>
    have hskip : ¬ Stops p (step + 1) := hnone _ (by omega) (by omega)
    rw [skipLoop, if_neg (mt (stops_iff p _).1 hskip)]
    exact ih (step + 1) fun k hk hle => hnone k (by omega) (by omega)

section
variable {subvl : BitVec 2} {p : Predicate} {vl : BitVec 7} {inverted : Bool} {step : BitVec 7} {sub : BitVec 2}

/-- A sub-vector not at its end goes on inside the element, in the order that has it innermost. -/
theorem iterateSide_withinElement (h : sub ≠ subvl) :
    iterateSide subvl p vl false step sub = ⟨step, sub + 1, false⟩ := by
  simp [iterateSide, h]

/-- Where the skip loop comes to element `k`, the substep starts again or, inverted, is kept. -/
theorem iterateSide_toElement {k : Nat} (h : ¬ (inverted = false ∧ sub ≠ subvl))
    (hmove : skipLoop p (vl.toNat - 1 - step.toNat) step.toNat = (k, false)) :
    iterateSide subvl p vl inverted step sub = ⟨BitVec.ofNat 7 k, if inverted then sub else 0, false⟩ := by
  cases inverted with
  | true => simp [iterateSide, hmove]
  | false =>
    have hsub : sub = subvl := by simpa using h
    simp [iterateSide, hmove, hsub]

/-- Where the skip loop comes to the end, the loop ends unless an inverted sub-vector goes on. -/
theorem iterateSide_wrap (h : ¬ (inverted = false ∧ sub ≠ subvl))
    (hmove : skipLoop p (vl.toNat - 1 - step.toNat) step.toNat = (0, true)) :
    iterateSide subvl p vl inverted step sub =
      if inverted then (if sub = subvl then ⟨0, subvl, true⟩ else ⟨0, sub + 1, false⟩) else ⟨0, 0, true⟩ := by
  cases inverted with
  | true => by_cases hsub : sub = subvl <;> simp [iterateSide, hmove, hsub]
  | false =>
    have hsub : sub = subvl := by simpa using h
    simp [iterateSide, hmove, hsub]

theorem iterateSide_stepsUnderPredicate :
    StepsUnderPredicate subvl p vl inverted step sub (iterateSide subvl p vl inverted step sub) := by
  unfold StepsUnderPredicate
  split
  next hinside =>
    obtain ⟨rfl, hsub⟩ := hinside
    exact iterateSide_withinElement hsub
  next houtside =>
    constructor
    · intro k hlt hvl hstop hfirst
      exact iterateSide_toElement houtside (skipLoop_firstStop p _ _ k hlt (by omega) hstop hfirst)
    · intro hnone
      exact iterateSide_wrap houtside (skipLoop_noStop p _ _ fun k hlt hle => hnone k hlt (by omega))

end

/-- A step of SVSTATE is the two sides' moves, each by its own fields and predicate, and the OR of their ends. -/
theorem Svstate.next_eq_movedTo (subvl : BitVec 2) (p q : Predicate) (v : Svstate) :
    v.next subvl p q =
      (movedTo v (iterateSide subvl p v.vl v.pack v.srcstep v.ssubstep)
          (iterateSide subvl q v.vl v.unpack v.dststep v.dsubstep),
        (iterateSide subvl p v.vl v.pack v.srcstep v.ssubstep).loopend ||
          (iterateSide subvl q v.vl v.unpack v.dststep v.dsubstep).loopend) := rfl

/-- Settles O39: each side steps under its own predicate. -/
theorem maskedElementsAreSkipped : Obligations.MaskedElementsAreSkipped := by
  intro subvl p q v _ _ _ _
  exact ⟨_, _, iterateSide_stepsUnderPredicate, iterateSide_stepsUnderPredicate, Svstate.next_eq_movedTo subvl p q v⟩

end Sys2Proof.Machine
end

section
/-! PROOFS. One side of a step without a predicate: the walk through the `vl * (subvl + 1)` positions, in either order
(spec/40_svstep.md R115, 42_vector_context.md R167). -/

namespace Sys2Proof.Machine

open Sys2Proof.Safety

/-- Position `b` of row `a` is among the first `n * m`, for `n` rows of `m` positions. -/
theorem position_le {a n b m : Nat} (ha : a < n) (hb : b < m) : a * m + b + 1 ≤ n * m :=
  calc a * m + b + 1 ≤ a * m + m := by omega
    _ = (a + 1) * m := (Nat.succ_mul a m).symm
    _ ≤ n * m := Nat.mul_le_mul_right m ha

/-- The last of `n * m` positions is the last place of the last row. -/
theorem position_last_iff {a n b m : Nat} (ha : a < n) (hb : b < m) :
    a * m + b + 1 = n * m ↔ a + 1 = n ∧ b + 1 = m := by
  constructor
  · intro h
    by_cases hrow : a + 1 = n
    · subst hrow
      rw [Nat.succ_mul] at h
      exact ⟨rfl, by omega⟩
    · have hnext := position_le (show a + 1 < n by omega) (show 0 < m by omega)
      rw [Nat.succ_mul] at hnext
      omega
  · rintro ⟨rfl, rfl⟩
    rw [Nat.succ_mul]
    omega

section
variable {subvl : BitVec 2} {vl step : BitVec 7} {sub : BitVec 2} {next : Position}

theorem skipLoop_none_of_lt (h : step.toNat + 1 < vl.toNat) :
    skipLoop Predicate.none (vl.toNat - 1 - step.toNat) step.toNat = (step.toNat + 1, false) := by
  rw [skipLoop_none, if_neg (by omega)]

theorem skipLoop_none_of_last (h : step.toNat + 1 = vl.toNat) :
    skipLoop Predicate.none (vl.toNat - 1 - step.toNat) step.toNat = (0, true) := by
  rw [skipLoop_none, if_pos (by omega)]

/-- A step below the last goes on by one without overflow of its field. -/
theorem toNat_step_add_one (h : step.toNat + 1 < vl.toNat) :
    (BitVec.ofNat 7 (step.toNat + 1)).toNat = step.toNat + 1 :=
  Nat.mod_eq_of_lt (h.trans vl.isLt)

/-- A substep below subvl goes on by one without overflow of its field. -/
theorem toNat_sub_add_one (h : sub.toNat < subvl.toNat) : (sub + 1).toNat = sub.toNat + 1 :=
  BitVec.toNat_add_of_lt ((Nat.succ_le_of_lt h).trans_lt subvl.isLt)

theorem walksInOrder_subVectorInnermost_of_next
    (hlt : step.toNat * (subvl.toNat + 1) + sub.toNat + 1 < vl.toNat * (subvl.toNat + 1))
    (hpos : next.step.toNat * (subvl.toNat + 1) + next.sub.toNat = step.toNat * (subvl.toNat + 1) + sub.toNat + 1)
    (hsub : next.sub.toNat ≤ subvl.toNat) (hend : next.loopend = false) :
    WalksInOrder subvl vl false step sub next := by
  refine ⟨?_, hsub, ?_⟩
  · rw [hpos, Nat.mod_eq_of_lt hlt]
  · simp [hend, hlt.ne]

theorem walksInOrder_subVectorInnermost_wrap
    (hlast : step.toNat * (subvl.toNat + 1) + sub.toNat + 1 = vl.toNat * (subvl.toNat + 1)) :
    WalksInOrder subvl vl false step sub ⟨0, 0, true⟩ := by
  simp [WalksInOrder, hlast]

theorem walksInOrder_elementsInnermost_of_next
    (hne : sub.toNat * vl.toNat + step.toNat + 1 ≠ vl.toNat * (subvl.toNat + 1))
    (hpos : next.sub.toNat * vl.toNat + next.step.toNat = sub.toNat * vl.toNat + step.toNat + 1)
    (hstep : next.step.toNat < vl.toNat) (hend : next.loopend = false) :
    WalksInOrder subvl vl true step sub next := by
  refine ⟨?_, ?_, fun _ => ⟨hstep, hpos⟩⟩ <;> simp [hend, hne]

theorem walksInOrder_elementsInnermost_wrap
    (hlast : sub.toNat * vl.toNat + step.toNat + 1 = vl.toNat * (subvl.toNat + 1)) :
    WalksInOrder subvl vl true step sub ⟨0, subvl, true⟩ := by
  simp [WalksInOrder, hlast]

/-- Rows are elements, places in a row substeps: the substep moves until subvl, then the element. -/
theorem iterateSide_walksInOrder_subVectorInnermost (hstep : step.toNat < vl.toNat) (hsub : sub.toNat ≤ subvl.toNat) :
    WalksInOrder subvl vl false step sub (iterateSide subvl Predicate.none vl false step sub) := by
  have hlast := position_last_iff hstep (Nat.lt_succ_of_le hsub)
  have hle := position_le hstep (Nat.lt_succ_of_le hsub)
  by_cases heq : sub = subvl
  · subst heq
    by_cases hvl : step.toNat + 1 = vl.toNat
    · rw [iterateSide_wrap (by simp) (skipLoop_none_of_last hvl)]
      exact walksInOrder_subVectorInnermost_wrap (hlast.2 ⟨hvl, rfl⟩)
    · have hlt : step.toNat + 1 < vl.toNat := by omega
      rw [iterateSide_toElement (by simp) (skipLoop_none_of_lt hlt)]
      refine walksInOrder_subVectorInnermost_of_next (lt_of_le_of_ne hle fun h => hvl (hlast.1 h).1) ?_ ?_ rfl
      · simp [toNat_step_add_one hlt, Nat.succ_mul, Nat.add_assoc]
      · simp
  · have hlt : sub.toNat < subvl.toNat := lt_of_le_of_ne hsub (mt BitVec.eq_of_toNat_eq heq)
    have hend : sub.toNat + 1 ≠ subvl.toNat + 1 := by omega
    rw [iterateSide_withinElement heq]
    refine walksInOrder_subVectorInnermost_of_next (lt_of_le_of_ne hle fun h => hend (hlast.1 h).2) ?_ ?_ rfl
    · rw [toNat_sub_add_one hlt, Nat.add_assoc]
    · rw [toNat_sub_add_one hlt]
      exact hlt

/-- Rows are substeps, places in a row elements: the element moves until vl - 1, then the substep. -/
theorem iterateSide_walksInOrder_elementsInnermost (hstep : step.toNat < vl.toNat) (hsub : sub.toNat ≤ subvl.toNat) :
    WalksInOrder subvl vl true step sub (iterateSide subvl Predicate.none vl true step sub) := by
  have hlast := position_last_iff (Nat.lt_succ_of_le hsub) hstep
  rw [Nat.mul_comm (subvl.toNat + 1)] at hlast
  by_cases hvl : step.toNat + 1 = vl.toNat
  · rw [iterateSide_wrap (by simp) (skipLoop_none_of_last hvl), if_pos rfl]
    by_cases heq : sub = subvl
    · rw [if_pos heq]
      exact walksInOrder_elementsInnermost_wrap (hlast.2 ⟨by rw [heq], hvl⟩)
    · have hlt : sub.toNat < subvl.toNat := lt_of_le_of_ne hsub (mt BitVec.eq_of_toNat_eq heq)
      have hend : sub.toNat + 1 ≠ subvl.toNat + 1 := by omega
      rw [if_neg heq]
      refine walksInOrder_elementsInnermost_of_next (fun h => hend (hlast.1 h).1) ?_ (Nat.zero_lt_of_lt hstep) rfl
      rw [toNat_sub_add_one hlt, Nat.succ_mul, Nat.add_assoc _ step.toNat, hvl]
      rfl
  · have hlt : step.toNat + 1 < vl.toNat := by omega
    rw [iterateSide_toElement (by simp) (skipLoop_none_of_lt hlt), if_pos rfl]
    refine walksInOrder_elementsInnermost_of_next (fun h => hvl (hlast.1 h).2) ?_ ?_ rfl
    · rw [toNat_step_add_one hlt, Nat.add_assoc]
    · rwa [toNat_step_add_one hlt]

theorem iterateSide_walksInOrder (inverted : Bool) (hstep : step.toNat < vl.toNat) (hsub : sub.toNat ≤ subvl.toNat) :
    WalksInOrder subvl vl inverted step sub (iterateSide subvl Predicate.none vl inverted step sub) := by
  cases inverted with
  | false => exact iterateSide_walksInOrder_subVectorInnermost hstep hsub
  | true => exact iterateSide_walksInOrder_elementsInnermost hstep hsub

end

/-- Settles O38: each side walks in the order of its own bit. -/
theorem iteratorsWalkThePositionsInOrder : Obligations.IteratorsWalkThePositionsInOrder := by
  intro subvl v hsrc hdst hssub hdsub
  exact ⟨_, _, iterateSide_walksInOrder v.pack hsrc hssub, iterateSide_walksInOrder v.unpack hdst hdsub,
    Svstate.next_eq_movedTo subvl Predicate.none Predicate.none v⟩

end Sys2Proof.Machine
end

section
/-! PROOFS. svstep by its selector (spec/40_svstep.md R100 to R105): what an enquiry and the explicit step complete with. -/

namespace Sys2Proof.Machine

open Sys2Proof.Safety

section
variable {rt : RegNum} {svi : BitVec 7} {vf : Bool} {s : State}

theorem exec_svstep : exec (.svstep rt svi vf) s = runSvstep false rt svi vf s := rfl

theorem exec_svstepRc : exec (.svstepRc rt svi vf) s = runSvstep true rt svi vf s := rfl

theorem stepEffect_step : stepEffect 0 true s = takeStep s.svstate := rfl

theorem runSvstep_next_pc {rc : Bool} {t : State} (h : runSvstep rc rt svi vf s = .next t) : t.pc = s.pc + 4 := by
  obtain ⟨e, -, -, rfl⟩ := (runSvstep_eq_next rc rt s svi vf t).1 h
  exact State.setPc_pc _ _

/-- The writes of either form, with the pc moved, are those of a completed svstep. -/
theorem stepDone_stepState (rc : Bool) (rt : RegNum) (e : StepEffect) (s : State) :
    StepDone rt e.value.toNat e.svstate s ((stepState rc rt e s).setPc (s.pc + 4)) := by
  refine ⟨by simp, fun r => ?_, by simp, by simp, by simp, by simp, by simp⟩
  rw [State.setPc_readGpr, stepState_readGpr, BitVec.ofNat_toNat]

/-- A defined effect completes in both forms. -/
theorem stepCompletes_of_stepEffect {e : StepEffect} (hpc : CanAdvance s) (h : stepEffect svi vf s = .ok e) :
    StepCompletes rt svi vf e.value.toNat e.svstate e.loopend s := by
  have hnext (rc : Bool) : runSvstep rc rt svi vf s = .next ((stepState rc rt e s).setPc (s.pc + 4)) :=
    (runSvstep_eq_next rc rt s svi vf _).2 ⟨e, h, hpc, rfl⟩
  exact ⟨⟨_, exec_svstep.trans (hnext false), stepDone_stepState false rt e s, by simp⟩,
    ⟨_, exec_svstepRc.trans (hnext true), stepDone_stepState true rt e s, by simp [svstepCr0]⟩⟩

/-- An enquiry's value completes in both forms, the loop's end told by at_loopend. -/
theorem stepCompletes_of_enquire {value : BitVec 7} {v : Svstate} (hpc : CanAdvance s)
    (h : stepEffect svi vf s = .ok (enquire value v)) :
    StepCompletes rt svi vf value.toNat v (v.atLoopend 0) s :=
  stepCompletes_of_stepEffect hpc h

end

/-- With subvl 0 and no predicate, a side goes on by one or wraps, in either order of its loops. -/
theorem iterateSide_unprefixed {vl step : BitVec 7} {sub : BitVec 2} (inverted : Bool) (hstep : step.toNat < vl.toNat)
    (hsub : sub = Config.unprefixedSubvl) :
    iterateSide Config.unprefixedSubvl Predicate.none vl inverted step sub =
      ⟨if step.toNat + 1 = vl.toNat then 0 else step + 1, sub, decide (step.toNat + 1 = vl.toNat)⟩ := by
  subst hsub
  by_cases hlast : step.toNat + 1 = vl.toNat
  · rw [iterateSide_wrap (by simp) (skipLoop_none_of_last hlast)]
    cases inverted <;> simp [hlast, Config.unprefixedSubvl]
  · rw [iterateSide_toElement (by simp) (skipLoop_none_of_lt (by omega))]
    cases inverted <;> simp [hlast, Config.unprefixedSubvl, BitVec.ofNat_add]

/-- The explicit step in closed form, on every state where it is defined (spec/40_svstep.md R116). -/
theorem takeStep_eq {v : Svstate} (hsrc : v.srcstep.toNat < v.vl.toNat) (hdst : v.dststep.toNat < v.vl.toNat)
    (hssub : v.ssubstep = Config.unprefixedSubvl) (hdsub : v.dsubstep = Config.unprefixedSubvl) :
    takeStep v = .ok
      { value := 0
        loopend := decide (v.srcstep.toNat + 1 = v.vl.toNat) || decide (v.dststep.toNat + 1 = v.vl.toNat)
        svstate := { v with
          srcstep := if v.srcstep.toNat + 1 = v.vl.toNat then 0 else v.srcstep + 1
          dststep := if v.dststep.toNat + 1 = v.vl.toNat then 0 else v.dststep + 1 } } := by
  have hdefined : v.inconsistency Config.unprefixedSubvl = none :=
    (Svstate.inconsistency_eq_none _ _).2
      ⟨by omega, by omega, by omega, by rw [hssub], by rw [hdsub]⟩
  refine (takeStep_eq_ok v _).2 ⟨hdefined, ?_⟩
  rw [Svstate.next_eq_movedTo, iterateSide_unprefixed v.pack hsrc hssub, iterateSide_unprefixed v.unpack hdst hdsub]
  rfl

/-- Settles O30: each side goes on by one or wraps, whatever `pack` and `unpack` are. -/
theorem stepMovesEachSideByOne : Obligations.StepMovesEachSideByOne := by
  intro rt s hpc hsrc hdst hssub hdsub
  exact stepCompletes_of_stepEffect hpc (stepEffect_step.trans (takeStep_eq hsrc hdst hssub hdsub))

/-- Settles O29: a selector 0 that does not step is an enquiry of the value 0. -/
theorem enquiryWithoutStepWritesZero : Obligations.EnquiryWithoutStepWritesZero :=
  fun _ _ hpc => stepCompletes_of_enquire (value := 0) hpc rfl

/-- Zero extension of a 2-bit substep to the 7 bits of an enquiry's value keeps the number. -/
theorem toNat_setWidth_substep (sub : BitVec 2) : (sub.setWidth 7).toNat = sub.toNat :=
  BitVec.toNat_setWidth_of_le (by decide)

/-- Settles O27: each of the four selectors is an enquiry of its step field. -/
theorem enquiryReturnsTheStepField : Obligations.EnquiryReturnsTheStepField := by
  intro rt vf s hpc
  refine ⟨stepCompletes_of_enquire hpc rfl, stepCompletes_of_enquire hpc rfl, ?_, ?_⟩
  · rw [← toNat_setWidth_substep]
    exact stepCompletes_of_enquire hpc rfl
  · rw [← toNat_setWidth_substep]
    exact stepCompletes_of_enquire hpc rfl

/-- The selectors 1 to 4 name SVSHAPE0 to SVSHAPE3 (spec/30_encoding.md R77). -/
theorem stepMode_remap (n : BitVec 2) : stepMode (BitVec.ofNat 7 (n.toNat + 1)) = .remap n := by
  revert n
  decide

/-- Settles O28: each of the four selectors is an enquiry of the external function at its SVSHAPE. -/
theorem remapEnquiryReturnsTheOffset : Obligations.RemapEnquiryReturnsTheOffset := by
  intro rt vf s n hpc
  refine stepCompletes_of_enquire hpc ?_
  rw [stepEffect, stepMode_remap]

/-- The selectors 12 to 15 carry the two bits that are stored (spec/30_encoding.md R77). -/
theorem stepMode_setPack (pack unpack : Bool) :
    stepMode (BitVec.ofNat 7 (12 + 2 * pack.toNat + unpack.toNat)) = .setPack pack unpack := by
  revert pack unpack
  decide

/-- The value that pack/unpack mode returns is `pack` at weight 2 and `unpack` at weight 1 (spec/40_svstep.md R101). -/
theorem toNat_packValue (pack unpack : Bool) :
    ((0 : BitVec 5) ++ BitVec.ofBool pack ++ BitVec.ofBool unpack).toNat = 2 * pack.toNat + unpack.toNat := by
  rw [toNat_append_eq_add, toNat_append_eq_add, BitVec.toNat_ofBool, BitVec.toNat_ofBool,
    BitVec.ofNat_eq_ofNat, BitVec.toNat_zero]
  omega

/-- Settles O26: the effect is an enquiry of the two bits on the state that holds them, and at_loopend reads neither. -/
theorem packUnpackStoresBothBits : Obligations.PackUnpackStoresBothBits := by
  intro rt pack unpack vf s hpc
  rw [← toNat_packValue]
  refine stepCompletes_of_enquire (v := { s.svstate with pack := pack, unpack := unpack }) hpc ?_
  rw [stepEffect, stepMode_setPack]
  rfl

/-- Settles O34: the only write of the pc is the one that ends every completed svstep. -/
theorem svstepNeverBranches : Obligations.SvstepNeverBranches :=
  fun _ _ _ _ _ h => h.elim runSvstep_next_pc runSvstep_next_pc

/-- Settles O36: `step + 1 = vl` on naturals is `step = vl - 1` on integers, and no step meets it when vl is 0. -/
theorem atLoopendIsTheLastElement : Obligations.AtLoopendIsTheLastElement := by
  intro subvl v
  have hlast (step : BitVec 7) : step.toNat + 1 = v.vl.toNat ↔ (step.toNat : Int) = v.vl.toNat - 1 := by omega
  constructor
  · simp only [Svstate.atLoopend, Bool.or_eq_true, decide_eq_true_eq, hlast]
  · intro hvl
    simp [Svstate.atLoopend, hvl]

end Sys2Proof.Machine
end

section
/-! PROOFS. setvl and its pseudo-ops (spec/41_setvl.md R131 to R139, R143): the lengths a form completes with, what it
reports, and the trap as the only use of VL_LIMIT. -/

namespace Sys2Proof.Machine

open Sys2Proof.Safety

section
variable {c : Config.Parameters} {rc : Bool} {rt ra : RegNum} {svi : BitVec 7} {ms vs vf : Bool} {s t : State}

theorem setvlTraps_eq_false_iff : setvlTraps c svi ms = false ↔ ¬ (ms = true ∧ c.vlLimit < svi.toNat + 1) := by
  cases ms <;> simp [setvlTraps, immediateLength]

theorem runSetvl_of_traps (h : c.vlLimit < svi.toNat + 1) :
    runSetvl c rc rt ra svi true vs vf s = .fault (.illegalInstruction s.pc) :=
  if_pos (decide_eq_true h)

/-- Without ms no limit is read. -/
theorem runSetvl_ms_false (c c' : Config.Parameters) :
    runSetvl c rc rt ra svi false vs vf s = runSetvl c' rc rt ra svi false vs vf s := rfl

theorem selectMvl_eq_mvl : selectMvl svi ms s = mvl svi ms s := rfl

/-- An MVL that a legal limit does not trap fits its field, kept or taken from the immediate. -/
theorem mvl_lt_of_not_traps (hlimit : c.vlLimit ≤ 127) (h : setvlTraps c svi ms = false) : mvl svi ms s < 128 := by
  cases ms with
  | false => exact s.svstate.maxvl.isLt
  | true =>
    have hle : svi.toNat + 1 ≤ c.vlLimit := by simpa using setvlTraps_eq_false_iff.1 h
    exact Nat.lt_succ_of_le (hle.trans hlimit)

theorem limitLength_eq_min (bound x : Nat) : limitLength bound (x, false) = (min x bound, decide (bound < x)) := by
  by_cases h : bound < x
  · simp [limitLength, h, h.le]
  · simp [limitLength, h, Nat.le_of_not_lt h]

/-- Below 128 the limit hides the saturation: the value cut at 127 was above the bound already. -/
theorem limitLength_saturateLength {bound : Nat} (hbound : bound < 128) (x : Word) :
    limitLength bound (saturateLength x) = limitLength bound (x.toNat, false) := by
  by_cases hx : 127 < x.toNat
  · have hlt : bound < x.toNat := by omega
    have hle : bound ≤ 127 := by omega
    rw [saturateLength, if_pos hx]
    rcases hle.lt_or_eq with hcut | hcut <;> simp [limitLength, hlt, hcut, hx]
  · rw [saturateLength, if_neg hx]

/-- The length is the minimum on unbounded integers, and overflow a request above the MVL, for every row of the table of
R132. -/
theorem setvlLength_eq (hmvl : mvl svi ms s < 128) : setvlLength rt ra svi ms vs s =
    (min (vlen rt ra svi vs s) (mvl svi ms s), decide (mvl svi ms s < vlen rt ra svi vs s)) := by
  rw [← limitLength_eq_min, setvlLength, selectMvl_eq_mvl, requestLength, vlen]
  split
  · rfl
  · split
    · exact limitLength_saturateLength hmvl _
    · split
      · rfl
      · exact limitLength_saturateLength hmvl _

theorem lengthsSet_setvlState (hmvl : mvl svi ms s < 128) :
    LengthsSet rt (mvl svi ms s) (min (vlen rt ra svi vs s) (mvl svi ms s)) s
      ((setvlState rc rt ra svi ms vs vf s).setPc (s.pc + 4)) := by
  refine ⟨?_, ?_, fun r => ?_, by simp, by simp, by simp, by simp⟩
  · simp [setvlSvstate, selectMvl_eq_mvl, hmvl]
  · simp [setvlSvstate, setvlLength_eq hmvl, hmvl]
  · rw [State.setPc_readGpr, setvlState_readGpr, setvlLength_eq hmvl]

theorem lengthReported_setvlState (hmvl : mvl svi ms s < 128) :
    LengthReported (min (vlen rt ra svi vs s) (mvl svi ms s)) (mvl svi ms s < vlen rt ra svi vs s)
      ((setvlState true rt ra svi ms vs vf s).setPc (s.pc + 4)) := by
  simp [LengthReported, setvlLength_eq hmvl, setvlCr0]

theorem runSetvl_completes (hlimit : c.vlLimit ≤ 127) (h : setvlTraps c svi ms = false) (hpc : CanAdvance s) :
    ∃ t, runSetvl c false rt ra svi ms vs vf s = .next t ∧
      LengthsSet rt (mvl svi ms s) (min (vlen rt ra svi vs s) (mvl svi ms s)) s t ∧ t.cr0 = s.cr0 :=
  ⟨_, (runSetvl_eq_next ..).2 ⟨h, hpc, rfl⟩, lengthsSet_setvlState (mvl_lt_of_not_traps hlimit h), by simp⟩

theorem runSetvl_record_completes (hlimit : c.vlLimit ≤ 127) (h : setvlTraps c svi ms = false) (hpc : CanAdvance s) :
    ∃ t, runSetvl c true rt ra svi ms vs vf s = .next t ∧
      LengthsSet rt (mvl svi ms s) (min (vlen rt ra svi vs s) (mvl svi ms s)) s t ∧
      LengthReported (min (vlen rt ra svi vs s) (mvl svi ms s)) (mvl svi ms s < vlen rt ra svi vs s) t :=
  have hmvl := mvl_lt_of_not_traps hlimit h
  ⟨_, (runSetvl_eq_next ..).2 ⟨h, hpc, rfl⟩, lengthsSet_setvlState hmvl, lengthReported_setvlState hmvl⟩

/-- vfirst and RMpst after either form (R136). -/
theorem runSetvl_next_verticalFirst (h : runSetvl c rc rt ra svi ms vs vf s = .next t) :
    t.svstate.vfirst = (if ms then vf else s.svstate.vfirst) ∧
      t.svstate.rmpst = (if ms then false else s.svstate.rmpst) := by
  obtain ⟨-, -, rfl⟩ := (runSetvl_eq_next ..).1 h
  simp [setvlSvstate]

theorem execWith_expand (c : Config.Parameters) (i : Instr) (s : State) : execWith c i s = execWith c i.expand s := by
  cases i <;> rfl

/-- An instruction that sets no MVL does the same under any two sets of parameters. -/
theorem execWith_congr_of_no_mvl (c c' : Config.Parameters) (i : Instr) (s : State)
    (h : ∀ rt ra svi vs vf, i.expand ≠ .setvl rt ra svi true vs vf ∧ i.expand ≠ .setvlRc rt ra svi true vs vf) :
    execWith c i s = execWith c' i s := by
  cases i with
  | setvl rt ra svi ms vs vf =>
    cases ms with
    | false => exact runSetvl_ms_false c c'
    | true => exact absurd rfl (h rt ra svi vs vf).1
  | setvlRc rt ra svi ms vs vf =>
    cases ms with
    | false => exact runSetvl_ms_false c c'
    | true => exact absurd rfl (h rt ra svi vs vf).2
  | setmvli svi => exact absurd rfl (h 0 0 svi false false).1
  | setmvliRc svi => exact absurd rfl (h 0 0 svi false false).2
  | svstep | svstepRc => rfl
  | setvli | setvliRc | getvl | getvlRc => exact runSetvl_ms_false c c'

theorem vlLimit_recommended_le : Config.recommended.vlLimit ≤ 127 := by decide

end

/-- Settles O12: the recommended limit is 64. -/
theorem setvlCompletesWithTheMinimum : Obligations.SetvlCompletesWithTheMinimum :=
  fun _ _ _ _ _ _ _ hms hpc => runSetvl_completes vlLimit_recommended_le (setvlTraps_eq_false_iff.2 hms) hpc

/-- Settles O13: as O12, with CR0 written. -/
theorem setvlRecordCompletesAndReports : Obligations.SetvlRecordCompletesAndReports :=
  fun _ _ _ _ _ _ _ hms hpc => runSetvl_record_completes vlLimit_recommended_le (setvlTraps_eq_false_iff.2 hms) hpc

/-- Settles O14: both forms are the one shared operation. -/
theorem verticalFirstChangesOnlyWithMs : Obligations.VerticalFirstChangesOnlyWithMs := by
  intro rt ra svi ms vs vf s t h
  have hvf : t.svstate.vfirst = (if ms then vf else s.svstate.vfirst) ∧
      t.svstate.rmpst = (if ms then false else s.svstate.rmpst) :=
    h.elim runSetvl_next_verticalFirst runSetvl_next_verticalFirst
  cases ms with
  | false => exact ⟨nofun, fun _ => hvf⟩
  | true => exact ⟨fun _ => hvf, nofun⟩

/-- Settles O23: `setvli` is setvl with the immediate as the request and the maxvl kept, so that no limit is read. -/
theorem setvliCompletes : Obligations.SetvliCompletes := by
  intro svi s hpc
  have hms : setvlTraps Config.recommended svi false = false := rfl
  obtain ⟨t, hnext, hlengths, hcr0⟩ :=
    runSetvl_completes (rt := 0) (ra := 0) (vs := true) (vf := false) vlLimit_recommended_le hms hpc
  obtain ⟨t', hnext', hlengths', hreport'⟩ :=
    runSetvl_record_completes (rt := 0) (ra := 0) (vs := true) (vf := false) vlLimit_recommended_le hms hpc
  exact ⟨⟨t, hnext, hlengths, hcr0, runSetvl_next_verticalFirst hnext⟩,
    ⟨t', hnext', hlengths', hreport', runSetvl_next_verticalFirst hnext'⟩⟩

/-- Settles O19: VL_LIMIT is read by the trap condition alone, and there with ms = 1 alone. -/
theorem vlLimitDecidesOnlyTheTrap : Obligations.VlLimitDecidesOnlyTheTrap := by
  refine ⟨exec_eq_execWith, rfl, fun c s hlegal => ⟨?_, ?_, fun i => execWith_expand c i s, ?_⟩⟩
  · intro rt ra svi vs vf habove
    exact ⟨runSetvl_of_traps habove, runSetvl_of_traps habove⟩
  · intro rt ra svi vs vf hwithin hpc
    obtain ⟨-, -, hlimit, -⟩ := hlegal
    have hms : setvlTraps c svi true = false := setvlTraps_eq_false_iff.2 fun h => h.2.not_ge hwithin
    exact ⟨runSetvl_completes hlimit hms hpc, runSetvl_record_completes hlimit hms hpc⟩
  · intro i hkeeps
    rw [exec_eq_execWith]
    exact execWith_congr_of_no_mvl c Config.recommended i s hkeeps

end Sys2Proof.Machine
end

section
/-! PROOFS. Decoder and encoder (spec/30_encoding.md R71 to R78, R86). Both layouts are one concatenation of nine fields,
which every word is in exactly one way: that determines what the decoder reads from an encoded word, and which words it
accepts. -/

namespace Sys2Proof

open Sys2Proof.Machine

/-- A word in the first SVL-Form layout with its PO and XO free (R71): both instructions' words are of this form. -/
def svlForm (po : BitVec 6) (rt ra : RegNum) (svi : BitVec 7) (ms vs vf : Bool) (xo : BitVec 5) (rc : Bool) : InstrWord :=
  po ++ rt ++ ra ++ svi ++ BitVec.ofBool ms ++ BitVec.ofBool vs ++ BitVec.ofBool vf ++ xo ++ BitVec.ofBool rc

section
variable {c : Config.Parameters} {w : InstrWord} {i : Instr} {po : BitVec 6} {rt ra : RegNum} {svi : BitVec 7}
  {ms vs vf : Bool} {xo : BitVec 5} {rc : Bool}

theorem setvlWord_eq_svlForm :
    setvlWord c rt ra svi ms vs vf rc = svlForm c.poSvl rt ra svi ms vs vf c.xoSetvl rc := rfl

theorem svstepWord_eq_svlForm :
    svstepWord c rt svi vf rc = svlForm c.poSvl rt 0 svi false false vf c.xoSvstep rc := rfl

theorem svlForm_inj {po' : BitVec 6} {rt' ra' : RegNum} {svi' : BitVec 7} {ms' vs' vf' : Bool} {xo' : BitVec 5}
    {rc' : Bool} : svlForm po rt ra svi ms vs vf xo rc = svlForm po' rt' ra' svi' ms' vs' vf' xo' rc' ↔
      po = po' ∧ rt = rt' ∧ ra = ra' ∧ svi = svi' ∧ ms = ms' ∧ vs = vs' ∧ vf = vf' ∧ xo = xo' ∧ rc = rc' := by
  refine bitVec_append_inj.trans ?_
  simp only [bitVec_append_inj, ofBool_inj, and_assoc]

/-- The nine fields leave no gap: joined from the top down, each brings in the bits just below the ones before. -/
theorem svlForm_msb0 (w : InstrWord) :
    svlForm (msb0 w 0 5) (msb0 w 6 10) (msb0 w 11 15) (msb0 w 16 22) (msb0Bit w 23) (msb0Bit w 24) (msb0Bit w 25)
      (msb0 w 26 30) (msb0Bit w 31) = w := by
  apply BitVec.eq_of_toNat_eq
  have htop : w.toNat / 2 ^ 26 % 2 ^ 6 = w.toNat / 2 ^ 26 := by omega
  simp only [svlForm, toNat_append_eq_add, BitVec.toNat_ofBool]
  simp only [msb0_toNat, msb0Bit_toNat, Nat.reduceAdd, Nat.reduceSub, htop, div_mul_add_mod_pow, pow_zero, Nat.div_one,
    Nat.div_add_mod']

theorem msb0_svlForm (hw : w = svlForm po rt ra svi ms vs vf xo rc) :
    msb0 w 0 5 = po ∧ msb0 w 6 10 = rt ∧ msb0 w 11 15 = ra ∧ msb0 w 16 22 = svi ∧ msb0Bit w 23 = ms ∧
      msb0Bit w 24 = vs ∧ msb0Bit w 25 = vf ∧ msb0 w 26 30 = xo ∧ msb0Bit w 31 = rc :=
  svlForm_inj.1 ((svlForm_msb0 w).trans hw)

theorem exists_svlForm (w : InstrWord) :
    ∃ po rt ra svi ms vs vf xo rc, w = svlForm po rt ra svi ms vs vf xo rc :=
  ⟨_, _, _, _, _, _, _, _, _, (svlForm_msb0 w).symm⟩

/-! ### The decoder on a word -/

theorem decodeWord_notInScope (hpo : msb0 w 0 5 ≠ c.poSvl) : decodeWord c w = .error (.notInScope w) :=
  if_pos hpo

theorem decodeWord_undefinedUnderPo (hpo : msb0 w 0 5 = c.poSvl) (hsetvl : msb0 w 26 30 ≠ c.xoSetvl)
    (hsvstep : msb0 w 26 30 ≠ c.xoSvstep) : decodeWord c w = .error (.undefinedUnderPo w) := by
  simp only [decodeWord]
  rw [if_neg (not_not_intro hpo), if_neg hsetvl, if_neg hsvstep]

theorem decodeWord_reservedBits (hc : c.legal) (hpo : msb0 w 0 5 = c.poSvl) (hxo : msb0 w 26 30 = c.xoSvstep)
    (hbits : ¬ (msb0 w 11 15 = 0 ∧ msb0Bit w 23 = false ∧ msb0Bit w 24 = false)) :
    decodeWord c w = .error (.reservedBits w) := by
  obtain ⟨-, hne, -⟩ := hc
  have hsetvl : msb0 w 26 30 ≠ c.xoSetvl := fun h => hne (h.symm.trans hxo)
  simp only [decodeWord]
  rw [if_neg (not_not_intro hpo), if_neg hsetvl, if_pos hxo, if_neg hbits]

theorem decodeWord_setvl (hpo : msb0 w 0 5 = c.poSvl) (hxo : msb0 w 26 30 = c.xoSetvl) :
    decodeWord c w = .ok (if msb0Bit w 31
      then .setvlRc (msb0 w 6 10) (msb0 w 11 15) (msb0 w 16 22) (msb0Bit w 23) (msb0Bit w 24) (msb0Bit w 25)
      else .setvl (msb0 w 6 10) (msb0 w 11 15) (msb0 w 16 22) (msb0Bit w 23) (msb0Bit w 24) (msb0Bit w 25)) := by
  simp only [decodeWord]
  rw [if_neg (not_not_intro hpo), if_pos hxo, apply_ite Except.ok]

theorem decodeWord_svstep (hc : c.legal) (hpo : msb0 w 0 5 = c.poSvl) (hxo : msb0 w 26 30 = c.xoSvstep)
    (hbits : msb0 w 11 15 = 0 ∧ msb0Bit w 23 = false ∧ msb0Bit w 24 = false) :
    decodeWord c w = .ok (if msb0Bit w 31
      then .svstepRc (msb0 w 6 10) (msb0 w 16 22) (msb0Bit w 25)
      else .svstep (msb0 w 6 10) (msb0 w 16 22) (msb0Bit w 25)) := by
  obtain ⟨-, hne, -⟩ := hc
  have hsetvl : msb0 w 26 30 ≠ c.xoSetvl := fun h => hne (h.symm.trans hxo)
  simp only [decodeWord]
  rw [if_neg (not_not_intro hpo), if_neg hsetvl, if_pos hxo, if_pos hbits, apply_ite Except.ok]

theorem decodeWord_setvlWord : decodeWord c (setvlWord c rt ra svi ms vs vf rc) =
    .ok (if rc then .setvlRc rt ra svi ms vs vf else .setvl rt ra svi ms vs vf) := by
  obtain ⟨hpo, hrt, hra, hsvi, hms, hvs, hvf, hxo, hrc⟩ := msb0_svlForm (setvlWord_eq_svlForm (c := c) (rt := rt)
    (ra := ra) (svi := svi) (ms := ms) (vs := vs) (vf := vf) (rc := rc))
  rw [decodeWord_setvl hpo hxo, hrt, hra, hsvi, hms, hvs, hvf, hrc]

theorem decodeWord_svstepWord (hc : c.legal) : decodeWord c (svstepWord c rt svi vf rc) =
    .ok (if rc then .svstepRc rt svi vf else .svstep rt svi vf) := by
  obtain ⟨hpo, hrt, hra, hsvi, hms, hvs, hvf, hxo, hrc⟩ := msb0_svlForm (svstepWord_eq_svlForm (c := c) (rt := rt)
    (svi := svi) (vf := vf) (rc := rc))
  rw [decodeWord_svstep hc hpo hxo ⟨hra, hms, hvs⟩, hrt, hsvi, hvf, hrc]

theorem decodeWord_encodeWord (hc : c.legal) (i : Instr) : decodeWord c (encodeWord c i) = .ok i.expand := by
  cases i with
  | svstep | svstepRc => exact decodeWord_svstepWord hc
  | setvl | setvlRc | setvli | setvliRc | setmvli | setmvliRc | getvl | getvlRc => exact decodeWord_setvlWord

/-- Every word is a core instruction's or has no meaning for the decoder. -/
theorem exists_encodeWord_or_error (hc : c.legal) (w : InstrWord) :
    (∃ i : Instr, i.expand = i ∧ encodeWord c i = w) ∨ ∃ e, decodeWord c w = .error e := by
  obtain ⟨po, rt, ra, svi, ms, vs, vf, xo, rc, hw⟩ := exists_svlForm w
  obtain ⟨hpo, -, hra, -, hms, hvs, -, hxo, -⟩ := msb0_svlForm hw
  by_cases heq : po = c.poSvl
  · subst heq
    by_cases hsetvl : xo = c.xoSetvl
    · subst hsetvl
      exact .inl ⟨if rc then .setvlRc rt ra svi ms vs vf else .setvl rt ra svi ms vs vf, by cases rc <;> rfl,
        by cases rc <;> exact hw.symm⟩
    · by_cases hsvstep : xo = c.xoSvstep
      · subst hsvstep
        by_cases hbits : ra = 0 ∧ ms = false ∧ vs = false
        · obtain ⟨rfl, rfl, rfl⟩ := hbits
          exact .inl ⟨if rc then .svstepRc rt svi vf else .svstep rt svi vf, by cases rc <;> rfl,
            by cases rc <;> exact hw.symm⟩
        · exact .inr ⟨_, decodeWord_reservedBits hc hpo hxo (by rwa [hra, hms, hvs])⟩
      · exact .inr ⟨_, decodeWord_undefinedUnderPo hpo (hxo.trans_ne hsetvl) (hxo.trans_ne hsvstep)⟩
  · exact .inr ⟨_, decodeWord_notInScope (hpo.trans_ne heq)⟩

theorem decodeWord_eq_ok_iff (hc : c.legal) : decodeWord c w = .ok i ↔ i.expand = i ∧ encodeWord c i = w := by
  constructor
  · intro h
    obtain ⟨j, hexpand, rfl⟩ | ⟨e, he⟩ := exists_encodeWord_or_error hc w
    · rw [decodeWord_encodeWord hc, hexpand] at h
      cases h
      exact ⟨hexpand, rfl⟩
    · exact nomatch he.symm.trans h
  · rintro ⟨hexpand, hw⟩
    rw [← hw, decodeWord_encodeWord hc, hexpand]

/-! ### The rows of the opcode map -/

theorem svlForm_and {po' : BitVec 6} {rt' ra' : RegNum} {svi' : BitVec 7} {ms' vs' vf' : Bool} {xo' : BitVec 5}
    {rc' : Bool} : svlForm po rt ra svi ms vs vf xo rc &&& svlForm po' rt' ra' svi' ms' vs' vf' xo' rc' =
      svlForm (po &&& po') (rt &&& rt') (ra &&& ra') (svi &&& svi') (ms && ms') (vs && vs') (vf && vf') (xo &&& xo')
        (rc && rc') := by
  refine BitVec.and_append.trans ?_
  simp only [BitVec.and_append, BitVec.ofBool_and_ofBool]
  rfl

/-- A setvl row's mask keeps PO, XO and Rc. -/
theorem setvlRow_covers_iff {mnemonic : String} :
    OpcodeRow.covers ⟨mnemonic, setvlWord c 0 0 0 false false false rc, 0xFC00003F⟩ w = true ↔
      ∃ rt ra svi ms vs vf, w = setvlWord c rt ra svi ms vs vf rc := by
  have hmask : (0xFC00003F : InstrWord) = svlForm (BitVec.allOnes 6) 0 0 0 false false false (BitVec.allOnes 5) true := by
    decide
  obtain ⟨po, rt, ra, svi, ms, vs, vf, xo, rc', rfl⟩ := exists_svlForm w
  simp only [OpcodeRow.covers, beq_iff_eq, hmask, svlForm_and, setvlWord_eq_svlForm, svlForm_inj,
    BitVec.and_allOnes]
  simp

/-- A svstep row's mask keeps PO, the reserved bits, XO and Rc. -/
theorem svstepRow_covers_iff {mnemonic : String} :
    OpcodeRow.covers ⟨mnemonic, svstepWord c 0 0 false rc, 0xFC1F01BF⟩ w = true ↔
      ∃ rt svi vf, w = svstepWord c rt svi vf rc := by
  have hmask : (0xFC1F01BF : InstrWord) =
      svlForm (BitVec.allOnes 6) 0 (BitVec.allOnes 5) 0 true true false (BitVec.allOnes 5) true := by
    decide
  obtain ⟨po, rt, ra, svi, ms, vs, vf, xo, rc', rfl⟩ := exists_svlForm w
  simp only [OpcodeRow.covers, beq_iff_eq, hmask, svlForm_and, svstepWord_eq_svlForm, svlForm_inj,
    BitVec.and_allOnes]
  simp

theorem exists_decodeWord_iff_covers (hc : c.legal) (w : InstrWord) :
    (∃ i, decodeWord c w = .ok i) ↔ ∃ r ∈ coreRows c, r.covers w = true := by
  simp only [coreRows, List.mem_cons, List.not_mem_nil, or_false, exists_eq_or_imp, exists_eq_left,
    setvlRow_covers_iff, svstepRow_covers_iff]
  constructor
  · rintro ⟨i, hi⟩
    obtain ⟨hexpand, rfl⟩ := (decodeWord_eq_ok_iff hc).1 hi
    cases i with
    | setvl rt ra svi ms vs vf => exact .inl ⟨rt, ra, svi, ms, vs, vf, rfl⟩
    | setvlRc rt ra svi ms vs vf => exact .inr (.inl ⟨rt, ra, svi, ms, vs, vf, rfl⟩)
    | svstep rt svi vf => exact .inr (.inr (.inl ⟨rt, svi, vf, rfl⟩))
    | svstepRc rt svi vf => exact .inr (.inr (.inr ⟨rt, svi, vf, rfl⟩))
    | setvli | setvliRc | setmvli | setmvliRc | getvl | getvlRc => cases hexpand
  · rintro (⟨rt, ra, svi, ms, vs, vf, rfl⟩ | ⟨rt, ra, svi, ms, vs, vf, rfl⟩ | ⟨rt, svi, vf, rfl⟩ | ⟨rt, svi, vf, rfl⟩)
    · exact ⟨_, decodeWord_setvlWord⟩
    · exact ⟨_, decodeWord_setvlWord⟩
    · exact ⟨_, decodeWord_svstepWord hc⟩
    · exact ⟨_, decodeWord_svstepWord hc⟩

/-- What tells the four rows apart: XO and Rc, which every row's mask keeps. -/
def rowKey (w : InstrWord) : BitVec 5 × Bool :=
  (msb0 w 26 30, msb0Bit w 31)

theorem rowKey_of_setvlRow_covers {mnemonic : String}
    (h : OpcodeRow.covers ⟨mnemonic, setvlWord c 0 0 0 false false false rc, 0xFC00003F⟩ w = true) :
    rowKey w = (c.xoSetvl, rc) := by
  obtain ⟨rt, ra, svi, ms, vs, vf, hw⟩ := setvlRow_covers_iff.1 h
  obtain ⟨-, -, -, -, -, -, -, hxo, hrc⟩ := msb0_svlForm (hw.trans setvlWord_eq_svlForm)
  exact Prod.ext hxo hrc

theorem rowKey_of_svstepRow_covers {mnemonic : String}
    (h : OpcodeRow.covers ⟨mnemonic, svstepWord c 0 0 false rc, 0xFC1F01BF⟩ w = true) :
    rowKey w = (c.xoSvstep, rc) := by
  obtain ⟨rt, svi, vf, hw⟩ := svstepRow_covers_iff.1 h
  obtain ⟨-, -, -, -, -, -, -, hxo, hrc⟩ := msb0_svlForm (hw.trans svstepWord_eq_svlForm)
  exact Prod.ext hxo hrc

theorem rows_disjoint_of_key_ne {r q : OpcodeRow} {k l : BitVec 5 × Bool} (hne : k ≠ l)
    (hr : ∀ {w}, r.covers w = true → rowKey w = k) (hq : ∀ {w}, q.covers w = true → rowKey w = l) (w : InstrWord) :
    ¬ (r.covers w = true ∧ q.covers w = true) :=
  fun ⟨h, h'⟩ => hne ((hr h).symm.trans (hq h'))

theorem coreRows_pairwise_disjoint (hc : c.legal) :
    (coreRows c).Pairwise fun r q => ∀ w : InstrWord, ¬ (r.covers w = true ∧ q.covers w = true) := by
  obtain ⟨-, hne, -⟩ := hc
  simp only [coreRows, List.pairwise_cons, List.mem_cons, List.not_mem_nil, or_false, forall_eq_or_imp, forall_eq,
    IsEmpty.forall_iff, implies_true, List.Pairwise.nil, and_true]
  refine ⟨⟨?_, ?_, ?_⟩, ⟨?_, ?_⟩, ?_⟩
  · exact rows_disjoint_of_key_ne (by simp) rowKey_of_setvlRow_covers rowKey_of_setvlRow_covers
  · exact rows_disjoint_of_key_ne (by simp [hne]) rowKey_of_setvlRow_covers rowKey_of_svstepRow_covers
  · exact rows_disjoint_of_key_ne (by simp) rowKey_of_setvlRow_covers rowKey_of_svstepRow_covers
  · exact rows_disjoint_of_key_ne (by simp) rowKey_of_setvlRow_covers rowKey_of_svstepRow_covers
  · exact rows_disjoint_of_key_ne (by simp [hne]) rowKey_of_setvlRow_covers rowKey_of_svstepRow_covers
  · exact rows_disjoint_of_key_ne (by simp) rowKey_of_svstepRow_covers rowKey_of_svstepRow_covers

/-! ### Bytes -/

theorem wordOfBytes_msb0 (w : InstrWord) :
    wordOfBytes .big (msb0 w 0 7) (msb0 w 8 15) (msb0 w 16 23) (msb0 w 24 31) = w := by
  apply BitVec.eq_of_toNat_eq
  have htop : w.toNat / 2 ^ 24 % 2 ^ 8 = w.toNat / 2 ^ 24 := by omega
  simp only [wordOfBytes, toNat_append_eq_add]
  simp only [msb0_toNat, Nat.reduceAdd, Nat.reduceSub, htop, div_mul_add_mod_pow, pow_zero, Nat.div_one,
    Nat.div_add_mod']

/-- In either order the four bytes of a word are read as that word. -/
theorem decode_bytesOfWord (h : decodeWord c w = .ok i) (rest : List Byte) :
    decode c (bytesOfWord c.insnEndian w ++ rest) = .ok (i, rest) := by
  have hread : decode c (bytesOfWord c.insnEndian w ++ rest) =
      match decodeWord c (wordOfBytes .big (msb0 w 0 7) (msb0 w 8 15) (msb0 w 16 23) (msb0 w 24 31)) with
      | .ok i => .ok (i, rest)
      | .error e => .error e := by
    unfold decode bytesOfWord
    cases c.insnEndian <;> rfl
  rw [hread, wordOfBytes_msb0, h]

end

/-- Settles O2: the expansions are the definition's, and each pseudo-op is encoded by the fields of its expansion. -/
theorem pseudoOpsExpandAsTheSpecSays : Obligations.PseudoOpsExpandAsTheSpecSays := by
  refine ⟨fun _ _ _ _ _ _ => ⟨rfl, rfl⟩, fun _ _ _ => ⟨rfl, rfl⟩, fun _ => ⟨rfl, rfl, rfl, rfl⟩, fun _ => ⟨rfl, rfl⟩, ?_⟩
  intro c i
  cases i <;> rfl

/-- Settles O1: the fields are read back from the layout, and the bytes make the word. -/
theorem decodeOfEncodeIsTheExpansion : Obligations.DecodeOfEncodeIsTheExpansion := by
  intro c i hc
  exact ⟨decodeWord_encodeWord hc i, decode_bytesOfWord (decodeWord_encodeWord hc i)⟩

/-- Settles O3: an accepted word is a core instruction's, and the rows are told apart by XO and Rc. -/
theorem acceptedWordsAreTheCoreRows : Obligations.AcceptedWordsAreTheCoreRows := by
  refine ⟨fun c hc => ⟨exists_decodeWord_iff_covers hc, coreRows_pairwise_disjoint hc, fun w i h => ?_⟩, by decide⟩
  exact ((decodeWord_eq_ok_iff hc).1 h).2

/-- Settles O4: six closed words, decoded. -/
theorem specWordsDecode : Obligations.SpecWordsDecode := by
  refine ⟨?_, ?_, ?_, ?_, ?_, ?_⟩ <;> decide

/-- Settles O5: the numbers in the statement are those of the MSB0 slices. -/
theorem otherWordsAreRejectedByName : Obligations.OtherWordsAreRejectedByName := by
  intro c w hc
  have hpo : msb0 w 0 5 = c.poSvl ↔ w.toNat / 2 ^ 26 = c.poSvl.toNat := by
    have htop : w.toNat / 2 ^ 26 % 2 ^ 6 = w.toNat / 2 ^ 26 := by omega
    rw [← BitVec.toNat_inj, msb0_toNat, htop]
  have hxo (x : BitVec 5) : msb0 w 26 30 = x ↔ w.toNat / 2 % 32 = x.toNat := by
    rw [← BitVec.toNat_inj, msb0_toNat]
    rfl
  have hra : msb0 w 11 15 = 0 ↔ w.toNat / 2 ^ 16 % 32 = 0 := by
    rw [← BitVec.toNat_inj, msb0_toNat]
    rfl
  have hms : (msb0Bit w 23).toNat = w.toNat / 2 ^ 8 % 2 := msb0Bit_toNat w 23
  have hvs : (msb0Bit w 24).toNat = w.toNat / 2 ^ 7 % 2 := msb0Bit_toNat w 24
  refine ⟨fun h => decodeWord_notInScope (mt hpo.1 h), fun h hsetvl hsvstep => ?_, fun h hsvstep hbits => ?_⟩
  · exact decodeWord_undefinedUnderPo (hpo.2 h) (mt (hxo _).1 hsetvl) (mt (hxo _).1 hsvstep)
  · refine decodeWord_reservedBits hc (hpo.2 h) ((hxo _).2 hsvstep) fun ⟨hra0, hms0, hvs0⟩ => ?_
    rw [hms0, Bool.toNat_false] at hms
    rw [hvs0, Bool.toNat_false] at hvs
    have hra' := hra.1 hra0
    omega

/-- Settles O6: n - 1 fits the 7-bit field exactly for the lengths the assembler takes. -/
theorem assemblerLengthIsFieldPlusOne : Obligations.AssemblerLengthIsFieldPlusOne := by
  constructor
  · intro n hpos hle
    refine ⟨_, if_pos ⟨hpos, hle⟩, ?_⟩
    rw [BitVec.toNat_ofNat]
    omega
  · intro n hn
    exact if_neg (by omega)

end Sys2Proof
end

section
/-! PROOFS. The fetch, the step and the launch (spec/20_memory.md R52 to R54, spec/70_reset_and_hazards.md R229 to R232):
what a step does by what the four bytes at the pc are, and what is in memory where text was laid. -/

namespace Sys2Proof.Machine

open Sys2Proof.Safety

section
variable {c : Config.Parameters} {s : State} {m : Memory} {pc : Word} {bytes rest : List Byte} {i : Instr}

/-- The four bytes at an aligned address end inside the address space. -/
theorem byteAddress_of_aligned (hpc : pc.toNat % 4 = 0) {k : Nat} (hk : k < 4) : byteAddress pc k = pc.toNat + k :=
  byteAddress_of_lt pc k (by omega)

theorem readBytes_of_read (hlen : bytes.length = 4) (h : ∀ k < 4, m.read (byteAddress pc k) = bytes[k]?) :
    m.readBytes pc = some bytes := by
  obtain ⟨b0, b1, b2, b3, rfl⟩ := List.length_eq_four.1 hlen
  exact (Memory.readBytes_eq_some m pc _).2
    ⟨b0, b1, b2, b3, h 0 (by decide), h 1 (by decide), h 2 (by decide), h 3 (by decide), rfl⟩

theorem readBytes_eq_none {k : Nat} (hk : k < 4) (h : m.read (byteAddress pc k) = none) : m.readBytes pc = none := by
  rw [Option.eq_none_iff_forall_ne_some]
  intro bytes hbytes
  obtain ⟨b0, b1, b2, b3, h0, h1, h2, h3, -⟩ := (Memory.readBytes_eq_some m pc bytes).1 hbytes
  interval_cases k
  · exact nomatch h.symm.trans h0
  · exact nomatch h.symm.trans h1
  · exact nomatch h.symm.trans h2
  · exact nomatch h.symm.trans h3

theorem fetch_misaligned (hpc : s.pc.toNat % 4 ≠ 0) : fetch c s = .refused (.misalignedPc s.pc) :=
  if_pos hpc

theorem fetch_endOfText (hpc : s.pc.toNat % 4 = 0) (hread : s.mem.readBytes s.pc = none) :
    fetch c s = .fault (.endOfText s.pc) := by
  rw [fetch, if_neg (not_not_intro hpc), hread]

theorem fetch_instr (hpc : s.pc.toNat % 4 = 0) (hread : s.mem.readBytes s.pc = some bytes)
    (hdecode : decode c bytes = .ok (i, rest)) : fetch c s = .instr i := by
  rw [fetch, if_neg (not_not_intro hpc), hread]
  simp only [hdecode]

theorem fetch_decodeError {e : DecodeError} (hpc : s.pc.toNat % 4 = 0) (hread : s.mem.readBytes s.pc = some bytes)
    (hdecode : decode c bytes = .error e) : fetch c s = stopOfDecodeError s.pc e := by
  rw [fetch, if_neg (not_not_intro hpc), hread]
  simp only [hdecode]

/-- A byte that is not listed among the four at the pc ends the run. -/
theorem stepWith_endOfText {k : Nat} (hpc : s.pc.toNat % 4 = 0) (hk : k < 4) (h : s.mem.read (s.pc.toNat + k) = none) :
    stepWith c s = .fault (.endOfText s.pc) := by
  rw [← byteAddress_of_aligned hpc hk] at h
  rw [stepWith, fetch_endOfText hpc (readBytes_eq_none hk h)]
  rfl

theorem stepWith_of_decode (hpc : s.pc.toNat % 4 = 0) (hread : s.mem.readBytes s.pc = some bytes)
    (hdecode : decode c bytes = .ok (i, rest)) : stepWith c s = execWith c i s := by
  rw [stepWith, fetch_instr hpc hread hdecode]
  rfl

/-- A step at an aligned pc that holds the bytes of a decodable word runs what it decodes to. -/
theorem stepWith_of_decodeWord {w : InstrWord} (hpc : s.pc.toNat % 4 = 0)
    (hread : s.mem.readBytes s.pc = some (bytesOfWord c.insnEndian w)) (hdecode : decodeWord c w = .ok i) :
    stepWith c s = execWith c i s :=
  stepWith_of_decode hpc hread (List.append_nil (bytesOfWord _ w) ▸ decode_bytesOfWord hdecode [])

theorem bytesOfWord_length (e : Config.Endian) (w : InstrWord) : (bytesOfWord e w).length = 4 := by
  cases e <;> rfl

end

/-- Settles O7: aligned addresses do not wrap, so the four reads are the fetch. -/
theorem stepRunsTheDecodedInstruction : Obligations.StepRunsTheDecodedInstruction := by
  refine ⟨step_eq_stepWith, fun c s b0 b1 b2 b3 i hpc h0 h1 h2 h3 hdecode => ?_⟩
  have hread : s.mem.readBytes s.pc = some [b0, b1, b2, b3] := by
    refine (Memory.readBytes_eq_some _ _ _).2 ⟨b0, b1, b2, b3, ?_, ?_, ?_, ?_, rfl⟩ <;>
      rwa [byteAddress_of_aligned hpc (by decide)]
  have hstep : stepWith c s = execWith c i s := stepWith_of_decode hpc hread hdecode
  refine ⟨hstep, ?_⟩
  rintro rfl
  rw [step_eq_stepWith, hstep, exec_eq_execWith]

/-- Settles O8: one lemma of the fetch for each reason. -/
theorem stepStopsWithoutAnInstruction : Obligations.StepStopsWithoutAnInstruction := by
  intro c s
  refine ⟨fun hpc => ?_, fun hpc ⟨k, hk, hnone⟩ => stepWith_endOfText hpc hk hnone, fun bytes w hpc hread => ?_⟩
  · rw [stepWith, fetch_misaligned hpc]
    rfl
  · refine ⟨?_, ?_, ?_⟩ <;>
    · intro hdecode
      rw [stepWith, fetch_decodeError hpc hread hdecode]
      rfl

/-! ### A word placed at the pc (R231) -/

section
variable {s : State} {i : Instr}

theorem ofNat_toNat_mod (w : InstrWord) : BitVec.ofNat 32 (w.toNat % 2 ^ 32) = w := by
  rw [Nat.mod_eq_of_lt w.isLt, BitVec.ofNat_toNat, BitVec.setWidth_eq]

theorem withFetchWord_mem (w : InstrWord) : (s.withFetchWord 32 w.toNat).mem =
    s.mem.writeBytes s.pc 0 (bytesOfWord Config.recommended.insnEndian w) := by
  simp only [State.withFetchWord, ofNat_toNat_mod, State.loadText, State.setMem_mem, textBytes, List.flatMap_singleton]

theorem withFetchWord_read (w : InstrWord) (hpc : s.pc.toNat % 4 = 0) (a : Nat) :
    (s.withFetchWord 32 w.toNat).mem.read a =
      if s.pc.toNat ≤ a ∧ a < s.pc.toNat + 4 then (bytesOfWord Config.recommended.insnEndian w)[a - s.pc.toNat]?
      else s.mem.read a := by
  have hin : s.pc.toNat + 0 + (bytesOfWord Config.recommended.insnEndian w).length ≤ 2 ^ 64 := by
    rw [bytesOfWord_length]
    omega
  rw [withFetchWord_mem, Memory.read_writeBytes _ _ _ _ _ hin, bytesOfWord_length, Nat.add_zero]

theorem withFetchWord_readBytes (w : InstrWord) (hpc : s.pc.toNat % 4 = 0) :
    (s.withFetchWord 32 w.toNat).mem.readBytes s.pc = some (bytesOfWord Config.recommended.insnEndian w) := by
  refine readBytes_of_read (bytesOfWord_length _ _) fun k hk => ?_
  rw [byteAddress_of_aligned hpc hk, withFetchWord_read w hpc, if_pos (by omega), Nat.add_sub_cancel_left]

theorem recommended_legal : Config.recommended.legal := by decide

theorem decodeTableWord_of_decodeWord {w : InstrWord} (h : decodeWord Config.recommended w = .ok i) :
    decodeTableWord 32 w.toNat = some i := by
  have hdecode := decode_bytesOfWord h []
  rw [List.append_nil] at hdecode
  rw [decodeTableWord, ofNat_toNat_mod, hdecode]

end

/-- Settles O9: the word's bytes are read back at the pc, and decode to the expansion. -/
theorem placedWordIsTheNextInstruction : Obligations.PlacedWordIsTheNextInstruction := by
  intro s i hpc
  have hdecode := decodeWord_encodeWord recommended_legal i
  refine ⟨decodeTableWord_of_decodeWord hdecode, ?_, rfl, fun a ha => ?_⟩
  · rw [step_eq_stepWith, exec_eq_execWith]
    exact stepWith_of_decodeWord hpc (withFetchWord_readBytes _ hpc) hdecode
  · rw [withFetchWord_read _ hpc, if_neg (by omega)]

/-! ### The launch (R231, R232) -/

section
variable {c : Config.Parameters} {l : Launch} {s : State}

theorem toNat_base_add {k : Nat} (h : l.base.toNat + 4 * k < 2 ^ 64) :
    (l.base + BitVec.ofNat 64 (4 * k)).toNat = l.base.toNat + 4 * k := by
  rw [BitVec.toNat_add, BitVec.toNat_ofNat]
  omega

theorem launch_readBytes (h : l.premises c s) {k : Nat} (hk : k < l.text.length) {a : Word}
    (ha : a.toNat = l.base.toNat + 4 * k) :
    (s.launch c l).mem.readBytes a = some (bytesOfWord c.insnEndian l.text[k]) := by
  obtain ⟨haligned, hend, -, -⟩ := h
  refine readBytes_of_read (bytesOfWord_length _ _) fun j hj => ?_
  have hlast : l.base.toNat + 4 * k + 4 ≤ l.textEnd := by
    rw [Launch.textEnd]
    omega
  rw [byteAddress_of_aligned (by omega) hj, State.launch_read c l s hend, if_pos (by omega),
    ← textBytes_word c l.text k j hk hj]
  congr 1
  omega

theorem launch_read_outside (h : l.premises c s) {a : Nat} (ha : a < l.base.toNat ∨ l.textEnd ≤ a) :
    (s.launch c l).mem.read a = none := by
  obtain ⟨-, hend, -, -⟩ := h
  rw [State.launch_read c l s hend, if_neg (by omega)]

/-- The entry is the load address or stands in the text, so its address is not wrapped. -/
theorem launch_pc (h : l.premises c s) : (s.launch c l).pc.toNat = l.base.toNat + 4 * l.entry := by
  obtain ⟨-, hend, hentry, -⟩ := h
  rw [Launch.textEnd] at hend
  exact toNat_base_add (by omega)

theorem launch_inv (h : l.premises c s) : Inv c (s.launch c l) := by
  have hpc := launch_pc h
  obtain ⟨haligned, -, -, hwf⟩ := h
  refine ⟨hwf, ?_, by omega⟩
  exact State.loadText_wf c (s.setMem []) l.base l.text ⟨List.Pairwise.nil, nofun⟩

end

/-- Settles O10: the premises keep every address of the text inside the address space. -/
theorem launchLaysTheTextAndMeetsTheInvariant : Obligations.LaunchLaysTheTextAndMeetsTheInvariant := by
  intro c l s h
  refine ⟨launch_inv h, launch_pc h, fun k hk => ?_, fun a ha => launch_read_outside h ha, ?_, rfl, rfl, rfl⟩
  · have ⟨_, hend, _, _⟩ := h
    rw [Launch.textEnd] at hend
    exact launch_readBytes h hk (toNat_base_add (by omega))
  · exact ⟨fun _ _ => rfl, rfl, rfl, rfl, fun _ => rfl⟩

/-- Settles O11: inside the text the fetch reads a laid word, one word past it no byte. -/
theorem launchedTextRunsWordByWord : Obligations.LaunchedTextRunsWordByWord := by
  intro c l s t h hmem
  have ⟨haligned, _, _, _⟩ := h
  constructor
  · intro k hk i hpc hdecode
    exact stepWith_of_decodeWord (by omega) (hmem ▸ launch_readBytes h hk hpc) hdecode
  · intro hend
    have hpc : t.pc.toNat = l.textEnd := hend
    have hnone : t.mem.read (t.pc.toNat + 0) = none := by
      rw [hmem]
      exact launch_read_outside h (.inr (by omega))
    rw [Launch.textEnd] at hpc
    exact stepWith_endOfText (by omega) (by decide) hnone

end Sys2Proof.Machine
end

section
/-! PROOFS. What setvl and its pseudo-ops leave unchanged, when they stop, and the well-formed SVSTATE they keep
(spec/10_state.md R45, R46, spec/41_setvl.md R134 to R145). -/

namespace Sys2Proof.Machine

open Sys2Proof.Safety

section
variable {c : Config.Parameters} {rc : Bool} {rt ra : RegNum} {svi : BitVec 7} {ms vs vf : Bool} {s t : State}

theorem exec_setvl : exec (.setvl rt ra svi ms vs vf) s = runSetvl Config.recommended false rt ra svi ms vs vf s := rfl

theorem exec_setvlRc : exec (.setvlRc rt ra svi ms vs vf) s = runSetvl Config.recommended true rt ra svi ms vs vf s := rfl

theorem exec_setvli : exec (.setvli svi) s = runSetvl Config.recommended false 0 0 svi false true false s := rfl

theorem exec_setvliRc : exec (.setvliRc svi) s = runSetvl Config.recommended true 0 0 svi false true false s := rfl

theorem exec_setmvli : exec (.setmvli svi) s = runSetvl Config.recommended false 0 0 svi true false false s := rfl

theorem exec_setmvliRc : exec (.setmvliRc svi) s = runSetvl Config.recommended true 0 0 svi true false false s := rfl

theorem exec_getvl : exec (.getvl rt) s = runSetvl Config.recommended false rt 0 0 false false false s := rfl

theorem exec_getvlRc : exec (.getvlRc rt) s = runSetvl Config.recommended true rt 0 0 false false false s := rfl

/-- The trap is the only fault. -/
theorem runSetvl_eq_fault {f : Fault} : runSetvl c rc rt ra svi ms vs vf s = .fault f ↔
    (ms = true ∧ c.vlLimit < svi.toNat + 1) ∧ f = .illegalInstruction s.pc := by
  by_cases hlimit : ms = true ∧ c.vlLimit < svi.toNat + 1
  · obtain ⟨rfl, habove⟩ := hlimit
    simp [runSetvl_of_traps habove, habove, eq_comm]
  · rw [runSetvl, setvlTraps_eq_false_iff.2 hlimit, if_neg (by decide)]
    exact iff_of_false (State.advance_ne_fault _ _) fun h => hlimit h.1

theorem runSetvl_refused {r : Refusal} (h : runSetvl c rc rt ra svi ms vs vf s = .refused r) :
    ¬ CanAdvance s ∧ r = .pcWrap s.pc := by
  unfold runSetvl at h
  split at h
  · cases h
  · simpa [CanAdvance] using (State.advance_eq_refused _ _).1 h

/-! ### The frame -/

theorem runSetvl_next_readGpr (h : runSetvl c rc rt ra svi ms vs vf s = .next t) (r : RegNum) (hr : rt = 0 ∨ r ≠ rt) :
    t.readGpr r = s.readGpr r := by
  obtain ⟨-, -, rfl⟩ := (runSetvl_eq_next ..).1 h
  rw [State.setPc_readGpr, setvlState_readGpr, if_neg (by tauto)]

theorem runSetvl_next_sameButGpr (h : runSetvl c rc rt ra svi ms vs vf s = .next t) : SameButGpr rt s t := by
  have hgpr := runSetvl_next_readGpr h
  obtain ⟨-, -, rfl⟩ := (runSetvl_eq_next ..).1 h
  exact ⟨fun r hr => hgpr r (.inr hr), by simp, by simp, by simp, by simp⟩

/-- Without a register to write, any register may be named. -/
theorem runSetvl_next_sameButGpr_of_zero (h : runSetvl c rc 0 ra svi ms vs vf s = .next t) (r : RegNum) :
    SameButGpr r s t := by
  obtain ⟨-, hrest⟩ := runSetvl_next_sameButGpr h
  exact ⟨fun q _ => runSetvl_next_readGpr h q (.inl rfl), hrest⟩

theorem runSetvl_next_cr0 (h : runSetvl c false rt ra svi ms vs vf s = .next t) : t.cr0 = s.cr0 := by
  obtain ⟨-, -, rfl⟩ := (runSetvl_eq_next ..).1 h
  simp

/-- The fields of SVSTATE that setvl never writes. -/
theorem runSetvl_next_svstate_frame (h : runSetvl c rc rt ra svi ms vs vf s = .next t) :
    SameSteps s.svstate t.svstate ∧ SameCarried s.svstate t.svstate ∧ t.svstate.pack = s.svstate.pack ∧
      t.svstate.unpack = s.svstate.unpack := by
  obtain ⟨-, -, rfl⟩ := (runSetvl_eq_next ..).1 h
  simp [SameSteps, SameCarried, setvlSvstate]

/-- The fields of SVSTATE that setvl writes with ms = 1 only. -/
theorem runSetvl_next_svstate_of_ms_false (h : runSetvl c rc rt ra svi false vs vf s = .next t) :
    t.svstate.maxvl = s.svstate.maxvl ∧ t.svstate.vfirst = s.svstate.vfirst ∧ t.svstate.rmpst = s.svstate.rmpst := by
  obtain ⟨-, -, rfl⟩ := (runSetvl_eq_next ..).1 h
  simp [setvlSvstate, selectMvl]

theorem runSetvl_next_lengths (hlimit : c.vlLimit ≤ 127) (h : runSetvl c rc rt ra svi ms vs vf s = .next t) :
    ¬ (ms = true ∧ c.vlLimit < svi.toNat + 1) ∧ t.svstate.maxvl.toNat = mvl svi ms s ∧
      t.svstate.vl.toNat = min (vlen rt ra svi vs s) (mvl svi ms s) := by
  obtain ⟨htraps, -, rfl⟩ := (runSetvl_eq_next ..).1 h
  obtain ⟨hmaxvl, hvl, -⟩ := lengthsSet_setvlState (rc := rc) (vf := vf) (mvl_lt_of_not_traps hlimit htraps)
  exact ⟨setvlTraps_eq_false_iff.1 htraps, hmaxvl, hvl⟩

theorem runSetvl_next_vl_le_maxvl (hlimit : c.vlLimit ≤ 127) (h : runSetvl c rc rt ra svi ms vs vf s = .next t) :
    t.svstate.vl.toNat ≤ t.svstate.maxvl.toNat := by
  obtain ⟨-, hmaxvl, hvl⟩ := runSetvl_next_lengths hlimit h
  rw [hmaxvl, hvl]
  exact min_le_right _ _

theorem runSetvl_next_wf (hlimit : c.vlLimit ≤ 127) (h : runSetvl c rc rt ra svi ms vs vf s = .next t)
    (hwf : s.svstate.wf c) : t.svstate.wf c := by
  obtain ⟨⟨hsrc, hdst, -, -⟩, ⟨-, -, -, -, -, -, hrsvd, -⟩, -, -⟩ := runSetvl_next_svstate_frame h
  have hvl := runSetvl_next_vl_le_maxvl hlimit h
  obtain ⟨hms, hmaxvl, -⟩ := runSetvl_next_lengths hlimit h
  obtain ⟨hmvl, -, hsrcLimit, hdstLimit, hrsvdZero⟩ := hwf
  refine ⟨?_, hvl, hsrc ▸ hsrcLimit, hdst ▸ hdstLimit, hrsvd.trans hrsvdZero⟩
  rw [hmaxvl]
  cases ms with
  | false => exact hmvl
  | true => exact not_lt.1 fun hlt => hms ⟨rfl, hlt⟩

end

/-! ### The obligations on setvl -/

/-- Settles O18: the trap condition of R138 is the only way to a fault. -/
theorem mvlAboveTheLimitTraps : Obligations.MvlAboveTheLimitTraps := by
  constructor
  · intro rt ra svi vs vf s habove
    exact ⟨runSetvl_of_traps habove, runSetvl_of_traps habove, runSetvl_of_traps habove, runSetvl_of_traps habove⟩
  · intro rt ra svi ms vs vf s f h
    exact h.elim (fun h => (runSetvl_eq_fault.1 h).1) (fun h => (runSetvl_eq_fault.1 h).1)

/-- Settles O20: VL is cut to the MVL that is written, and an MVL above the limit would have trapped. -/
theorem setvlKeepsSvstateWellFormed : Obligations.SetvlKeepsSvstateWellFormed := by
  have hkeeps (c : Config.Parameters) (rt ra : RegNum) (svi : BitVec 7) (ms vs vf : Bool) (s t : State) (hc : c.legal)
      (h : execWith c (.setvl rt ra svi ms vs vf) s = .next t ∨ execWith c (.setvlRc rt ra svi ms vs vf) s = .next t) :
      t.svstate.vl.toNat ≤ t.svstate.maxvl.toNat ∧ (s.svstate.wf c → t.svstate.wf c) := by
    obtain ⟨-, -, hlimit, -⟩ := hc
    exact ⟨h.elim (runSetvl_next_vl_le_maxvl hlimit) (runSetvl_next_vl_le_maxvl hlimit),
      h.elim (runSetvl_next_wf hlimit) (runSetvl_next_wf hlimit)⟩
  exact ⟨fun rt ra svi ms vs vf s t => hkeeps _ rt ra svi ms vs vf s t recommended_legal, hkeeps⟩

/-- Settles O16: both forms are the one shared operation, whose frame is read off its writes. -/
theorem setvlFrame : Obligations.SetvlFrame := by
  intro rt ra svi ms vs vf s t
  refine ⟨runSetvl_next_cr0, fun h => ?_⟩
  obtain ⟨rc, h⟩ : ∃ rc, runSetvl Config.recommended rc rt ra svi ms vs vf s = .next t :=
    h.elim (fun h => ⟨_, h⟩) (fun h => ⟨_, h⟩)
  obtain ⟨hsteps, hcarried, hpack, hunpack⟩ := runSetvl_next_svstate_frame h
  refine ⟨runSetvl_next_sameButGpr h, fun hrt => runSetvl_next_readGpr h 0 (.inl hrt), hsteps, hcarried, hpack, hunpack,
    ?_⟩
  rintro rfl
  exact runSetvl_next_svstate_of_ms_false h

/-- Settles O17: a pseudo-op is a form of setvl, with RT = 0 but for getvl and with ms = 0 but for setmvli. -/
theorem pseudoOpFrame : Obligations.PseudoOpFrame := by
  intro svi rt s t
  simp only [exec_setvli, exec_setvliRc, exec_setmvli, exec_setmvliRc, exec_getvl, exec_getvlRc]
  refine ⟨?_, ?_, ?_, ?_⟩
  · rintro (h | h | h) <;> exact runSetvl_next_cr0 h
  · rintro (h | h | h | h) r <;> exact runSetvl_next_readGpr h r (.inl rfl)
  · rintro (h | h | h | h) <;> exact runSetvl_next_svstate_of_ms_false h
  · rintro (h | h | h | h | h | h)
    · exact ⟨runSetvl_next_sameButGpr_of_zero h rt, runSetvl_next_svstate_frame h⟩
    · exact ⟨runSetvl_next_sameButGpr_of_zero h rt, runSetvl_next_svstate_frame h⟩
    · exact ⟨runSetvl_next_sameButGpr_of_zero h rt, runSetvl_next_svstate_frame h⟩
    · exact ⟨runSetvl_next_sameButGpr_of_zero h rt, runSetvl_next_svstate_frame h⟩
    · exact ⟨runSetvl_next_sameButGpr h, runSetvl_next_svstate_frame h⟩
    · exact ⟨runSetvl_next_sameButGpr h, runSetvl_next_svstate_frame h⟩

/-- Settles O21: the minimum is `limitLength` on the unsaturated register, which the saturation does not change. -/
theorem saturateThenLimitIsTheMinimum : Obligations.SaturateThenLimitIsTheMinimum := by
  intro x bound
  rw [limitLength_saturateLength bound.isLt, limitLength_eq_min]

/-- SVi is read for VL only where the request is the immediate (R132). -/
theorem requestLength_congr {rt ra : RegNum} {vs : Bool} (svi svi' : BitVec 7) (s : State)
    (h : ¬ (vs = true ∧ ra = 0 ∧ rt = 0)) : requestLength rt ra svi vs s = requestLength rt ra svi' vs s := by
  unfold requestLength
  split
  · rfl
  next hvs =>
    split
    · rfl
    next hra =>
      have hrt : rt ≠ 0 := fun hrt => h ⟨by simpa using hvs, by simpa using hra, hrt⟩
      rw [if_neg hrt, if_neg hrt]

theorem runSetvl_svi_congr {c : Config.Parameters} {rc : Bool} {rt ra : RegNum} {vs vf : Bool} (svi svi' : BitVec 7)
    (s : State) (h : ¬ (vs = true ∧ ra = 0 ∧ rt = 0)) :
    runSetvl c rc rt ra svi false vs vf s = runSetvl c rc rt ra svi' false vs vf s := by
  have hlength : setvlLength rt ra svi false vs s = setvlLength rt ra svi' false vs s :=
    congrArg (limitLength s.svstate.maxvl.toNat) (requestLength_congr svi svi' s h)
  have hstate : setvlState rc rt ra svi false vs vf s = setvlState rc rt ra svi' false vs vf s := by
    simp only [setvlState, hlength]
    rfl
  exact congrArg State.advance hstate

/-- Settles O22: with ms = 0 vf is not written, and SVi is an unused request. -/
theorem unusedSetvlFieldsDoNotMatter : Obligations.UnusedSetvlFieldsDoNotMatter := by
  intro rt ra svi svi' vs vf vf' s
  simp only [exec_setvl, exec_setvlRc]
  exact ⟨rfl, rfl, fun h => ⟨runSetvl_svi_congr svi svi' s h, runSetvl_svi_congr svi svi' s h⟩⟩

/-- Settles O24: `setmvli` is setvl with the immediate as the MVL and the old VL as the request. -/
theorem setmvliCompletes : Obligations.SetmvliCompletes := by
  intro svi s hwithin hpc
  have hms : setvlTraps Config.recommended svi true = false := setvlTraps_eq_false_iff.2 fun h => h.2.not_ge hwithin
  obtain ⟨t, hnext, hlengths, hcr0⟩ :=
    runSetvl_completes (rt := 0) (ra := 0) (vs := false) (vf := false) vlLimit_recommended_le hms hpc
  obtain ⟨t', hnext', hlengths', hreport'⟩ :=
    runSetvl_record_completes (rt := 0) (ra := 0) (vs := false) (vf := false) vlLimit_recommended_le hms hpc
  exact ⟨⟨t, hnext, hlengths, hcr0, runSetvl_next_verticalFirst hnext⟩,
    ⟨t', hnext', hlengths', hreport', runSetvl_next_verticalFirst hnext'⟩⟩

/-- A getvl on a VL within MVL writes back what SVSTATE holds. -/
theorem runSetvl_getvl_next_svstate {c : Config.Parameters} {rc : Bool} {rt : RegNum} {s t : State}
    (h : runSetvl c rc rt 0 0 false false false s = .next t) (hvl : s.svstate.vl.toNat ≤ s.svstate.maxvl.toNat) :
    t.svstate = s.svstate := by
  have hlength : (setvlLength rt 0 0 false false s).1 = s.svstate.vl.toNat := by
    rw [setvlLength_eq (show mvl 0 false s < 128 from s.svstate.maxvl.isLt)]
    exact min_eq_left hvl
  obtain ⟨-, -, rfl⟩ := (runSetvl_eq_next ..).1 h
  rw [State.setPc_svstate, setvlState_svstate, hlength]
  simp [setvlSvstate, selectMvl]

/-- Settles O25: `getvl` is setvl with the old VL as the request and the maxvl kept. -/
theorem getvlCompletes : Obligations.GetvlCompletes := by
  intro rt s hpc
  have hms : setvlTraps Config.recommended 0 false = false := rfl
  obtain ⟨t, hnext, hlengths, hcr0⟩ :=
    runSetvl_completes (rt := rt) (ra := 0) (vs := false) (vf := false) vlLimit_recommended_le hms hpc
  obtain ⟨t', hnext', hlengths', hreport'⟩ :=
    runSetvl_record_completes (rt := rt) (ra := 0) (vs := false) (vf := false) vlLimit_recommended_le hms hpc
  exact ⟨⟨t, hnext, hlengths, hcr0, runSetvl_getvl_next_svstate hnext⟩,
    ⟨t', hnext', hlengths', hreport', runSetvl_getvl_next_svstate hnext'⟩⟩

end Sys2Proof.Machine
end

section
/-! PROOFS. What svstep leaves unchanged, when it stops, and the loop-consistent SVSTATE a step keeps (spec/10_state.md R45,
R46, spec/40_svstep.md R105 to R114). -/

namespace Sys2Proof.Machine

open Sys2Proof.Safety

section
variable {rc : Bool} {rt : RegNum} {svi : BitVec 7} {vf : Bool} {s t : State} {e : StepEffect} {f : Fault}

/-! ### The selector -/

theorem stepMode_eq_step_iff : stepMode svi = .step ↔ svi = 0 := by
  refine ⟨fun h => ?_, fun h => h ▸ rfl⟩
  unfold stepMode at h
  split_ifs at h with hzero
  exact BitVec.eq_of_toNat_eq hzero

theorem stepMode_eq_setPack {pack unpack : Bool} (h : stepMode svi = .setPack pack unpack) :
    12 ≤ svi.toNat ∧ svi.toNat ≤ 15 := by
  unfold stepMode at h
  split_ifs at h
  assumption

theorem stepMode_eq_remap {shape : BitVec 2} (h : stepMode svi = .remap shape) : 1 ≤ svi.toNat ∧ svi.toNat ≤ 4 := by
  unfold stepMode at h
  split_ifs at h
  omega

theorem stepMode_eq_reserved (h : svi.toNat = 9 ∨ svi.toNat = 10 ∨ svi.toNat = 11 ∨ 16 ≤ svi.toNat) :
    stepMode svi = .reserved := by
  rw [stepMode]
  repeat rw [if_neg (by omega)]

/-! ### The effect -/

/-- What a defined effect does to SVSTATE: nothing, the two pack bits, or a step. -/
theorem stepEffect_ok_cases (h : stepEffect svi vf s = .ok e) :
    e.svstate = s.svstate ∨
      (∃ pack unpack, (12 ≤ svi.toNat ∧ svi.toNat ≤ 15) ∧
        e.svstate = { s.svstate with pack := pack, unpack := unpack }) ∨
      (svi = 0 ∧ vf = true ∧ takeStep s.svstate = .ok e) := by
  unfold stepEffect at h
  split at h
  case h_1 => cases h
  case h_2 pack unpack hmode =>
    cases h
    exact .inr (.inl ⟨pack, unpack, stepMode_eq_setPack hmode, rfl⟩)
  case h_8 hmode =>
    cases vf with
    | false => cases h; exact .inl rfl
    | true => exact .inr (.inr ⟨stepMode_eq_step_iff.1 hmode, rfl, h⟩)
  all_goals
    cases h
    exact .inl rfl

theorem takeStep_eq_error {v : Svstate} (h : takeStep v = .error f) :
    ∃ why, v.inconsistency Config.unprefixedSubvl = some why ∧ f = .svStateInconsistent why := by
  unfold takeStep at h
  cases hwhy : v.inconsistency Config.unprefixedSubvl with
  | none => rw [hwhy] at h; cases h
  | some why => rw [hwhy] at h; cases h; exact ⟨why, rfl, rfl⟩

theorem takeStep_of_inconsistency {v : Svstate} {why : Inconsistency}
    (h : v.inconsistency Config.unprefixedSubvl = some why) : takeStep v = .error (.svStateInconsistent why) := by
  rw [takeStep, h]

/-- An undefined effect is a reserved selector's trap or an inconsistent step. -/
theorem stepEffect_error_cases (h : stepEffect svi vf s = .error f) :
    f = .illegalInstruction s.pc ∨ (svi = 0 ∧ vf = true ∧ ∃ why, f = .svStateInconsistent why) := by
  unfold stepEffect at h
  split at h
  case h_1 => cases h; exact .inl rfl
  case h_8 hmode =>
    cases vf with
    | false => cases h
    | true =>
      obtain ⟨why, -, hf⟩ := takeStep_eq_error h
      exact .inr ⟨stepMode_eq_step_iff.1 hmode, rfl, why, hf⟩
  all_goals cases h

/-! ### Stops -/

theorem runSvstep_eq_fault : runSvstep rc rt svi vf s = .fault f ↔ stepEffect svi vf s = .error f := by
  unfold runSvstep
  cases stepEffect svi vf s with
  | error g => simp
  | ok e => simp [State.advance_ne_fault]

theorem runSvstep_refused {r : Refusal} (h : runSvstep rc rt svi vf s = .refused r) :
    ¬ CanAdvance s ∧ r = .pcWrap s.pc := by
  unfold runSvstep at h
  split at h
  · cases h
  · simpa [CanAdvance] using (State.advance_eq_refused _ _).1 h

theorem stepFaults_of_stepEffect (h : stepEffect svi vf s = .error f) : StepFaults rt svi vf f s :=
  ⟨exec_svstep.trans (runSvstep_eq_fault.2 h), exec_svstepRc.trans (runSvstep_eq_fault.2 h)⟩

theorem stepFaults_of_inconsistency {why : Inconsistency}
    (h : s.svstate.inconsistency Config.unprefixedSubvl = some why) :
    StepFaults rt 0 true (.svStateInconsistent why) s :=
  stepFaults_of_stepEffect (stepEffect_step.trans (takeStep_of_inconsistency h))

/-! ### The frame -/

theorem runSvstep_next_sameButGpr (h : runSvstep rc rt svi vf s = .next t) : SameButGpr rt s t := by
  obtain ⟨e, -, -, rfl⟩ := (runSvstep_eq_next ..).1 h
  refine ⟨fun r hr => ?_, by simp, by simp, by simp, by simp⟩
  rw [State.setPc_readGpr, stepState_readGpr, if_neg hr]

theorem runSvstep_next_cr0 (h : runSvstep false rt svi vf s = .next t) : t.cr0 = s.cr0 := by
  obtain ⟨e, -, -, rfl⟩ := (runSvstep_eq_next ..).1 h
  simp

/-- What a completed svstep does to SVSTATE. -/
theorem runSvstep_next_svstate_cases (h : runSvstep rc rt svi vf s = .next t) :
    t.svstate = s.svstate ∨
      (∃ pack unpack, (12 ≤ svi.toNat ∧ svi.toNat ≤ 15) ∧
        t.svstate = { s.svstate with pack := pack, unpack := unpack }) ∨
      (svi = 0 ∧ vf = true ∧ s.svstate.inconsistency Config.unprefixedSubvl = none ∧
        t.svstate = (s.svstate.next Config.unprefixedSubvl Predicate.none Predicate.none).1) := by
  obtain ⟨e, heffect, -, rfl⟩ := (runSvstep_eq_next ..).1 h
  rw [State.setPc_svstate, stepState_svstate]
  obtain hsame | hpack | ⟨hsvi, hvf, htake⟩ := stepEffect_ok_cases heffect
  · exact .inl hsame
  · exact .inr (.inl hpack)
  · obtain ⟨hdefined, rfl⟩ := (takeStep_eq_ok _ _).1 htake
    exact .inr (.inr ⟨hsvi, hvf, hdefined, rfl⟩)

end

/-- The fields of SVSTATE that svstep never writes. -/
theorem runSvstep_next_svstate_frame {rc : Bool} {rt : RegNum} {svi : BitVec 7} {vf : Bool} {s t : State}
    (h : runSvstep rc rt svi vf s = .next t) :
    SameCarried s.svstate t.svstate ∧ t.svstate.maxvl = s.svstate.maxvl ∧ t.svstate.vl = s.svstate.vl ∧
      t.svstate.vfirst = s.svstate.vfirst ∧ t.svstate.rmpst = s.svstate.rmpst := by
  obtain hsame | ⟨pack, unpack, -, hpack⟩ | ⟨-, -, -, hstep⟩ := runSvstep_next_svstate_cases h
  · simp [hsame, SameCarried]
  · simp [hpack, SameCarried]
  · simp [hstep, Svstate.next_fields, SameCarried]

/-- Settles O33: of the three things svstep can do to SVSTATE, a selector allows at most one beside nothing. -/
theorem svstepFrame : Obligations.SvstepFrame := by
  intro rt svi vf s t
  refine ⟨runSvstep_next_cr0, fun h => ?_⟩
  obtain ⟨rc, h⟩ : ∃ rc, runSvstep rc rt svi vf s = .next t := h.elim (fun h => ⟨_, h⟩) (fun h => ⟨_, h⟩)
  obtain ⟨hcarried, hmaxvl, hvl, hvfirst, hrmpst⟩ := runSvstep_next_svstate_frame h
  refine ⟨runSvstep_next_sameButGpr h, hcarried, hmaxvl, hvl, hvfirst, hrmpst, fun hnostep => ?_, fun hnopack => ?_⟩
  · obtain hsame | ⟨pack, unpack, -, hpack⟩ | ⟨hsvi, hvf, -⟩ := runSvstep_next_svstate_cases h
    · simp [hsame, SameSteps]
    · simp [hpack, SameSteps]
    · exact absurd ⟨hsvi, hvf⟩ hnostep
  · obtain hsame | ⟨pack, unpack, hsel, -⟩ | ⟨-, -, -, hstep⟩ := runSvstep_next_svstate_cases h
    · simp [hsame]
    · exact absurd hsel hnopack
    · simp [hstep, Svstate.next_fields]

/-- Settles O32: no earlier class of the selector holds these values. -/
theorem reservedSelectorTraps : Obligations.ReservedSelectorTraps := by
  intro rt svi vf s hsvi
  refine stepFaults_of_stepEffect ?_
  rw [stepEffect, stepMode_eq_reserved hsvi]

/-- Settles O31: each clause is one reason of `inconsistency`, in its order. -/
theorem inconsistentStepFaults : Obligations.InconsistentStepFaults := by
  intro rt s
  refine ⟨fun hvl => ?_, fun hvl hsrc => ?_, fun hsrc hdst => ?_, fun hsrc hdst hsub => ?_⟩ <;>
    refine stepFaults_of_inconsistency ?_ <;> rw [Svstate.inconsistency]
  · rw [if_pos hvl]
  · rw [if_neg (by omega), if_pos (by omega)]
  · rw [if_neg (by omega), if_neg (by omega), if_pos (by omega)]
  · have hpos (sub : BitVec 2) (hne : sub ≠ 0) : Config.unprefixedSubvl.toNat < sub.toNat :=
      Nat.pos_of_ne_zero fun hzero => hne (BitVec.eq_of_toNat_eq hzero)
    rw [if_neg (by omega), if_neg (by omega), if_neg (by omega), if_pos (hsub.imp (hpos _) (hpos _))]

/-- Settles O15: a vl at or below a step is an inconsistency. -/
theorem setvlLeavesTheLoopPosition : Obligations.SetvlLeavesTheLoopPosition := by
  intro rt ra svi ms vs vf s t h
  obtain ⟨rc, h⟩ : ∃ rc, runSetvl Config.recommended rc rt ra svi ms vs vf s = .next t :=
    h.elim (fun h => ⟨_, h⟩) (fun h => ⟨_, h⟩)
  obtain ⟨hsteps, hcarried, hpack, hunpack⟩ := runSetvl_next_svstate_frame h
  refine ⟨hsteps, hcarried, hpack, hunpack, fun hbelow q => ?_⟩
  obtain ⟨hsrc, hdst, -, -⟩ := hsteps
  rw [← hsrc, ← hdst] at hbelow
  have hinconsistent : t.svstate.inconsistency Config.unprefixedSubvl ≠ none := by
    intro hnone
    obtain ⟨hvl, hsrcLe, hdstLe, -, -⟩ := (Svstate.inconsistency_eq_none _ _).1 hnone
    omega
  obtain ⟨why, hwhy⟩ := Option.ne_none_iff_exists'.1 hinconsistent
  exact ⟨why, stepFaults_of_inconsistency hwhy⟩

/-! ### A step keeps the loop consistent -/

/-- A side that stands inside the loop stays inside it, under any predicate. -/
theorem iterateSide_range {subvl : BitVec 2} {p : Predicate} {vl step : BitVec 7} {sub : BitVec 2} (inverted : Bool)
    (hstep : step.toNat < vl.toNat) (hsub : sub.toNat ≤ subvl.toNat) :
    (iterateSide subvl p vl inverted step sub).step.toNat < vl.toNat ∧
      (iterateSide subvl p vl inverted step sub).sub.toNat ≤ subvl.toNat := by
  have hnext (hne : sub ≠ subvl) : (sub + 1).toNat ≤ subvl.toNat := by
    have hlt : sub.toNat < subvl.toNat := lt_of_le_of_ne hsub (mt BitVec.eq_of_toNat_eq hne)
    rw [toNat_sub_add_one hlt]
    exact hlt
  by_cases hinside : inverted = false ∧ sub ≠ subvl
  · obtain ⟨rfl, hne⟩ := hinside
    rw [iterateSide_withinElement hne]
    exact ⟨hstep, hnext hne⟩
  · have hrange := skipLoop_range p (vl.toNat - 1 - step.toNat) step.toNat
    obtain ⟨⟨k, atEnd⟩, hmoved⟩ : ∃ moved, skipLoop p (vl.toNat - 1 - step.toNat) step.toNat = moved := ⟨_, rfl⟩
    rw [hmoved] at hrange
    obtain ⟨rfl, rfl⟩ | ⟨rfl, hlt, hle⟩ := hrange
    · rw [iterateSide_wrap hinside hmoved]
      have hpos : (0 : BitVec 7).toNat < vl.toNat := Nat.zero_lt_of_lt hstep
      split
      · split
        · exact ⟨hpos, le_rfl⟩
        · exact ⟨hpos, hnext ‹_›⟩
      · exact ⟨hpos, Nat.zero_le _⟩
    · rw [iterateSide_toElement hinside hmoved]
      refine ⟨?_, ?_⟩
      · rw [BitVec.toNat_ofNat]
        simp only at hlt hle
        exact (Nat.mod_le _ _).trans_lt (by omega)
      · split
        · exact hsub
        · exact Nat.zero_le _

/-- Settles O37: each side stays inside the loop, and a step within VL is within STEP_LIMIT. -/
theorem stepKeepsLoopConsistency : Obligations.StepKeepsLoopConsistency := by
  intro c subvl src dst v hc hv
  obtain ⟨-, -, -, hlimits⟩ := hc
  obtain ⟨⟨hmaxvl, hvl, -, -, hrsvd⟩, hpos, hsrc, hdst, hssub, hdsub⟩ := hv
  obtain ⟨hsrc', hssub'⟩ := iterateSide_range (p := src) v.pack (show v.srcstep.toNat < v.vl.toNat by omega) hssub
  obtain ⟨hdst', hdsub'⟩ := iterateSide_range (p := dst) v.unpack (show v.dststep.toNat < v.vl.toNat by omega) hdsub
  rw [Svstate.next_eq_movedTo]
  simp only [Svstate.loopConsistent, Svstate.wf, movedTo]
  exact ⟨⟨hmaxvl, hvl, by omega, by omega, hrsvd⟩, hpos, by omega, by omega, hssub', hdsub'⟩

/-- Settles O35: on the states a step is defined on, at_loopend looks at the same two steps. -/
theorem recordStepReportsTheLastElement : Obligations.RecordStepReportsTheLastElement := by
  intro rt s t h
  obtain ⟨e, heffect, -, rfl⟩ := (runSvstep_eq_next ..).1 (exec_svstepRc.symm.trans h)
  obtain ⟨hdefined, -⟩ := (takeStep_eq_ok _ _).1 (stepEffect_step.symm.trans heffect)
  obtain ⟨hvl, hsrc, hdst, hssub, hdsub⟩ := (Svstate.inconsistency_eq_none _ _).1 hdefined
  have hzero (sub : BitVec 2) (hle : sub.toNat ≤ Config.unprefixedSubvl.toNat) : sub = Config.unprefixedSubvl :=
    BitVec.eq_of_toNat_eq (Nat.le_zero.1 hle)
  have heffect' := heffect.symm.trans
    (stepEffect_step.trans (takeStep_eq (by omega) (by omega) (hzero _ hssub) (hzero _ hdsub)))
  cases heffect'
  simp [svstepCr0, Svstate.atLoopend, hzero _ hssub, hzero _ hdsub, Config.unprefixedSubvl]

end Sys2Proof.Machine
end

section
/-! PROOFS. Writes of the whole of SVSTATE, the fields the looping context reads, and reset (spec/10_state.md R30 to R37,
R44, spec/60_exceptions.md R196). -/

namespace Sys2Proof.Machine

open Sys2Proof.Safety

section
variable {c : Config.Parameters} {s : State} {v : Svstate}

theorem writeSvstate_out_of_range (h : c.vlLimit < v.maxvl.toNat ∨ c.vlLimit < v.vl.toNat ∨
    c.stepLimit < v.srcstep.toNat ∨ c.stepLimit < v.dststep.toNat) :
    s.writeSvstate c v.toWord = .fault (.illegalInstruction s.pc) := by
  simp only [State.writeSvstate, Svstate.ofWord_toWord]
  rw [if_pos h, State.trapIllegal]

theorem writeSvstate_reserved (h : ¬ (c.vlLimit < v.maxvl.toNat ∨ c.vlLimit < v.vl.toNat ∨
    c.stepLimit < v.srcstep.toNat ∨ c.stepLimit < v.dststep.toNat)) (hrsvd : v.rsvd ≠ 0) :
    s.writeSvstate c v.toWord = .refused (.svstateReservedBits v.toWord) := by
  simp only [State.writeSvstate, Svstate.ofWord_toWord]
  rw [if_neg h, if_pos hrsvd]

theorem writeSvstate_truncates (h : ¬ (c.vlLimit < v.maxvl.toNat ∨ c.vlLimit < v.vl.toNat ∨
    c.stepLimit < v.srcstep.toNat ∨ c.stepLimit < v.dststep.toNat)) (hrsvd : v.rsvd = 0) :
    s.writeSvstate c v.toWord =
      .next (s.setSvstate { v with vl := if v.maxvl.toNat < v.vl.toNat then v.maxvl else v.vl }) := by
  simp only [State.writeSvstate, Svstate.ofWord_toWord]
  rw [if_neg h, if_neg (not_not_intro hrsvd)]
  split <;> rfl

/-- A well-formed value is taken as it is. -/
theorem writeSvstate_of_wf (h : v.wf c) : s.writeSvstate c v.toWord = .next (s.setSvstate v) := by
  obtain ⟨hmaxvl, hvl, hsrc, hdst, hrsvd⟩ := h
  rw [writeSvstate_truncates (by omega) hrsvd, if_neg (by omega)]

end

/-- Settles O43: one lemma for each of the three outcomes. -/
theorem svstateWriteTrapsThenTruncates : Obligations.SvstateWriteTrapsThenTruncates := by
  refine ⟨rfl, rfl, fun c s v => ⟨writeSvstate_out_of_range, fun hmaxvl hvl hsrc hdst hrsvd => ?_,
    fun hmaxvl hvl hsrc hdst hrsvd => ?_⟩⟩
  · exact writeSvstate_reserved (by omega) hrsvd
  · exact writeSvstate_truncates (by omega) hrsvd

/-- Settles O44: the 64 bits determine the fields, and a well-formed value is neither refused nor truncated. -/
theorem savedSvstateIsRestored : Obligations.SavedSvstateIsRestored := by
  intro c s u hwf
  have hrestore : u.writeSvstate c s.readSvstate = .next (u.setSvstate s.svstate) := writeSvstate_of_wf hwf
  refine ⟨hrestore, s.readSvstate, if_pos rfl, ?_⟩
  rw [State.writeSpr, if_pos rfl, hrestore]

/-! ### The looping context -/

/-- The enable bit of an operand is a bit of the 64-bit value, from bit 17 up. -/
theorem ofWord_svme_getLsbD (w : Word) (o : RemapOperand) :
    (Svstate.ofWord w).svme.getLsbD o.bit = w.getLsbD (17 + o.bit) := by
  have hbit : o.bit < 5 := by cases o <;> decide
  simp [Svstate.ofWord, msb0, hbit]

/-- Settles O45: a selector is a slice of the 64-bit value. -/
theorem remapIsSelectedByItsEnableBit : Obligations.RemapIsSelectedByItsEnableBit := by
  constructor
  · intro w
    simp only [Svstate.remapShape, ofWord_svme_getLsbD]
    exact ⟨rfl, rfl, rfl, rfl, rfl⟩
  · intro v o hsvme
    simp [Svstate.remapShape, hsvme]

/-- Settles O46: a group is a quotient, defined where hphint is not 0. -/
theorem hintGroupsElementsByFloor : Obligations.HintGroupsElementsByFloor := by
  intro v a b
  refine ⟨fun hzero => if_pos hzero, fun hne => ⟨?_, _, if_neg hne⟩⟩
  rw [Svstate.hintGroup, Svstate.hintGroup, if_neg hne, if_neg hne, Option.some_inj]

/-! ### Reset -/

/-- SVSTATE at reset has the fields of SVSTATE_RESET. -/
theorem resetWith_svstate (c : Config.Parameters) : (State.resetWith c).svstate = Svstate.ofWord c.svstateReset := rfl

theorem resetWith_inv {c : Config.Parameters} (h : (Svstate.ofWord c.svstateReset).wf c) : Inv c (State.resetWith c) :=
  ⟨resetWith_svstate c ▸ h, ⟨List.Pairwise.nil, nofun⟩, rfl⟩

/-- Settles O50: SVSTATE is SVSTATE_RESET by its fields, memory is empty and the pc is 0. -/
theorem resetMeetsTheInvariant : Obligations.ResetMeetsTheInvariant :=
  ⟨resetWith_inv (by decide), fun _ h => resetWith_inv h⟩

theorem resetWith_readSvstate (c : Config.Parameters) : (State.resetWith c).readSvstate = c.svstateReset := by
  rw [State.readSvstate, resetWith_svstate, Svstate.toWord_ofWord]

/-- Settles O51: SVSTATE read back from its fields is SVSTATE_RESET, every other register a replicated 0. -/
theorem resetValuesAreTheLoggedOnes : Obligations.ResetValuesAreTheLoggedOnes := by
  refine ⟨rfl, fun c ⟨hngpr, _⟩ => ⟨resetWith_readSvstate c, ?_, fun v hv => ?_⟩, fun r => ?_, rfl, rfl, rfl,
    resetWith_readSvstate Config.recommended, fun n => ?_, fun _ => rfl⟩
  · rw [State.resetWith, List.length_replicate]
    exact Nat.add_sub_cancel' hngpr
  · exact List.eq_of_mem_replicate hv
  · exact Vector.getElem_replicate _
  · exact Vector.getElem_replicate _

end Sys2Proof.Machine
end

section
/-! PROOFS. The whole machine: what every instruction and every step keeps, the names it stops under, and runs
(spec/10_state.md R45, R46, spec/40_svstep.md R111, R115, spec/60_exceptions.md R193, spec/70_reset_and_hazards.md R232). -/

namespace Sys2Proof.Machine

open Sys2Proof.Safety

section
variable {c : Config.Parameters} {i : Instr} {s t : State}

/-! ### What an instruction carries -/

theorem execWith_next_canAdvance (h : execWith c i s = .next t) : CanAdvance s :=
  (execWith_next_cases c i s t h).1

theorem execWith_next_pc (h : execWith c i s = .next t) : t.pc = s.pc + 4 := by
  obtain ⟨-, ⟨_, _, _, _, _, _, _, -, rfl⟩ | ⟨_, _, _, _, _, -, rfl⟩⟩ := execWith_next_cases c i s t h <;>
    exact State.setPc_pc _ _

theorem execWith_next_pc_toNat (h : execWith c i s = .next t) : t.pc.toNat = s.pc.toNat + 4 := by
  rw [execWith_next_pc h]
  exact BitVec.toNat_add_of_lt (execWith_next_canAdvance h)

theorem execWith_next_mem (h : execWith c i s = .next t) : t.mem = s.mem := by
  obtain ⟨-, ⟨_, _, _, _, _, _, _, -, rfl⟩ | ⟨_, _, _, _, _, -, rfl⟩⟩ := execWith_next_cases c i s t h <;> simp

/-- Both shared operations carry the fields of R46's row of empty cells. -/
theorem execWith_next_sameCarried (h : execWith c i s = .next t) : SameCarried s.svstate t.svstate := by
  obtain ⟨_, _, _, _, _, _, _, hrun⟩ | ⟨_, _, _, _, hrun⟩ := execWith_forms c i s
  · obtain ⟨-, hcarried, -, -⟩ := runSetvl_next_svstate_frame (hrun ▸ h)
    exact hcarried
  · obtain ⟨hcarried, -⟩ := runSvstep_next_svstate_frame (hrun ▸ h)
    exact hcarried

theorem execWith_next_sameButGpr (h : execWith c i s = .next t) : ∃ rt, SameButGpr rt s t := by
  obtain ⟨_, _, _, _, _, _, _, hrun⟩ | ⟨_, _, _, _, hrun⟩ := execWith_forms c i s
  · exact ⟨_, runSetvl_next_sameButGpr (hrun ▸ h)⟩
  · exact ⟨_, runSvstep_next_sameButGpr (hrun ▸ h)⟩

/-! ### The invariant -/

/-- A completed svstep keeps SVSTATE well formed: where it steps, the state is loop-consistent for subvl 0. -/
theorem runSvstep_next_wf {rc : Bool} {rt : RegNum} {svi : BitVec 7} {vf : Bool} (hc : c.legal)
    (h : runSvstep rc rt svi vf s = .next t) (hwf : s.svstate.wf c) : t.svstate.wf c := by
  obtain hsame | ⟨pack, unpack, -, hpack⟩ | ⟨-, -, hdefined, hstep⟩ := runSvstep_next_svstate_cases h
  · rwa [hsame]
  · rwa [hpack]
  · have hloop : s.svstate.loopConsistent c Config.unprefixedSubvl :=
      ⟨hwf, (Svstate.inconsistency_eq_none _ _).1 hdefined⟩
    obtain ⟨hwf', -⟩ := stepKeepsLoopConsistency c _ Predicate.none Predicate.none _ hc hloop
    rwa [hstep]

theorem execWith_next_wf (hc : c.legal) (h : execWith c i s = .next t) (hwf : s.svstate.wf c) : t.svstate.wf c := by
  obtain ⟨_, _, _, _, _, _, _, hrun⟩ | ⟨_, _, _, _, hrun⟩ := execWith_forms c i s
  · obtain ⟨-, -, hlimit, -⟩ := hc
    exact runSetvl_next_wf hlimit (hrun ▸ h) hwf
  · exact runSvstep_next_wf hc (hrun ▸ h) hwf

theorem execWith_next_inv (hc : c.legal) (h : execWith c i s = .next t) (hinv : Inv c s) : Inv c t := by
  obtain ⟨hwf, hmem, hpc⟩ := hinv
  have hpc' := execWith_next_pc_toNat h
  exact ⟨execWith_next_wf hc h hwf, execWith_next_mem h ▸ hmem, by omega⟩

theorem stepWith_next_inv (hc : c.legal) (h : stepWith c s = .next t) (hinv : Inv c s) : Inv c t := by
  obtain ⟨i, -, -, hexec⟩ := stepWith_next_cases c s t h
  exact execWith_next_inv hc hexec hinv

end

/-- Settles O49: a step runs one instruction, which keeps SVSTATE well formed and memory as it is and moves the pc by 4. -/
theorem stepKeepsTheInvariant : Obligations.StepKeepsTheInvariant :=
  ⟨fun s _ hinv h => stepWith_next_inv recommended_legal ((step_eq_stepWith s).symm.trans h) hinv,
    fun _ _ _ hc hinv h => stepWith_next_inv hc h hinv⟩

/-- Settles O47: what the frames of the two shared operations have in common. -/
theorem everyInstructionCarriesTheRest : Obligations.EveryInstructionCarriesTheRest := by
  intro i s t h
  rw [exec_eq_execWith] at h
  obtain ⟨rt, -, hhigh, hctr, hshape, hmem⟩ := execWith_next_sameButGpr h
  exact ⟨execWith_next_sameCarried h, hhigh, hctr, hshape, hmem, execWith_next_pc h⟩

/-! ### Stops -/

theorem runSvstep_fault_cases {rc : Bool} {rt : RegNum} {svi : BitVec 7} {vf : Bool} {s : State} {f : Fault}
    (h : runSvstep rc rt svi vf s = .fault f) :
    f = .illegalInstruction s.pc ∨ (svi = 0 ∧ vf = true ∧ ∃ why, f = .svStateInconsistent why) :=
  stepEffect_error_cases (runSvstep_eq_fault.1 h)

/-- An instruction that is no svstep traps at its own address or does not fault. -/
theorem exec_fault_cases {i : Instr} {s : State} {f : Fault} (h : exec i s = .fault f) :
    f = .illegalInstruction s.pc ∨
      ∃ why rt, f = .svStateInconsistent why ∧ (i = .svstep rt 0 true ∨ i = .svstepRc rt 0 true) := by
  rw [exec_eq_execWith] at h
  cases i with
  | svstep rt svi vf =>
    refine (runSvstep_fault_cases h).imp_right ?_
    rintro ⟨rfl, rfl, why, hf⟩
    exact ⟨why, rt, hf, .inl rfl⟩
  | svstepRc rt svi vf =>
    refine (runSvstep_fault_cases h).imp_right ?_
    rintro ⟨rfl, rfl, why, hf⟩
    exact ⟨why, rt, hf, .inr rfl⟩
  | setvl | setvlRc | setvli | setvliRc | setmvli | setmvliRc | getvl | getvlRc => exact .inl (runSetvl_eq_fault.1 h).2

theorem exec_refused {i : Instr} {s : State} {r : Refusal} (h : exec i s = .refused r) :
    ¬ CanAdvance s ∧ r = .pcWrap s.pc := by
  rw [exec_eq_execWith] at h
  obtain ⟨_, _, _, _, _, _, _, hrun⟩ | ⟨_, _, _, _, hrun⟩ := execWith_forms Config.recommended i s
  · exact runSetvl_refused (hrun ▸ h)
  · exact runSvstep_refused (hrun ▸ h)

/-- Settles O48: a fault comes from the trap of setvl or the effect of svstep, a refusal from moving the pc. -/
theorem instructionsStopOnlyByTheseNames : Obligations.InstructionsStopOnlyByTheseNames := by
  intro i s
  refine ⟨fun f h => exec_fault_cases h, fun r h => ?_⟩
  obtain ⟨htop, hr⟩ := exec_refused h
  exact ⟨hr, not_lt.1 htop⟩

/-! ### Runs -/

section
variable {s t : State}

theorem step_next_pc_mem (h : step s = .next t) : t.pc.toNat = s.pc.toNat + 4 ∧ t.mem = s.mem := by
  rw [step_eq_stepWith] at h
  obtain ⟨i, -, -, hexec⟩ := stepWith_next_cases _ s t h
  exact ⟨execWith_next_pc_toNat hexec, execWith_next_mem hexec⟩

/-- No step completes where the byte at the pc is not listed. -/
theorem step_ne_next_of_read_eq_none (h : s.mem.read s.pc.toNat = none) : step s ≠ .next t := by
  rw [step_eq_stepWith]
  intro hnext
  obtain ⟨-, -, hpc, -⟩ := stepWith_next_cases _ s t hnext
  have hstop := stepWith_endOfText (c := Config.recommended) (k := 0) hpc (by decide) h
  exact nomatch hstop.symm.trans hnext

theorem run_succ_eq_next {n : Nat} (h : core.run (n + 1) s = .next t) : ∃ u, step s = .next u ∧ core.run n u = .next t := by
  simp only [Host.Core.run] at h
  split at h
  next u hu => exact ⟨u, hu, h⟩
  next => cases h
  next => cases h

theorem run_next_pc_mem {n : Nat} (h : core.run n s = .next t) : t.pc.toNat = s.pc.toNat + 4 * n ∧ t.mem = s.mem := by
  induction n generalizing s with
  | zero =>
    cases h
    exact ⟨rfl, rfl⟩
  | succ n ih =>
    obtain ⟨u, hstep, hrun⟩ := run_succ_eq_next h
    obtain ⟨hpc, hmem⟩ := step_next_pc_mem hstep
    obtain ⟨hpc', hmem'⟩ := ih hrun
    exact ⟨by omega, hmem'.trans hmem⟩

/-- A run does not step past a byte that is not listed. -/
theorem run_succ_ne_next {n : Nat} (h : ∀ a, s.pc.toNat + 4 * n ≤ a → s.mem.read a = none) :
    core.run (n + 1) s ≠ .next t := by
  induction n generalizing s with
  | zero =>
    intro hrun
    obtain ⟨u, hstep, -⟩ := run_succ_eq_next hrun
    exact step_ne_next_of_read_eq_none (h _ le_rfl) hstep
  | succ n ih =>
    intro hrun
    obtain ⟨u, hstep, hrun'⟩ := run_succ_eq_next hrun
    obtain ⟨hpc, hmem⟩ := step_next_pc_mem hstep
    exact ih (fun a ha => hmem ▸ h a (by omega)) hrun'

end

/-- Settles O52: a step moves the pc by 4 and keeps memory, so the run comes to the first byte that is not listed. -/
theorem runsMoveStraightOnAndEnd : Obligations.RunsMoveStraightOnAndEnd :=
  ⟨fun _ _ _ h => run_next_pc_mem h, fun _ _ h _ => run_succ_ne_next h⟩

/-! ### The loop of R111 -/

section
variable {i : Instr} {s t : State}

/-- The last execution of a repetition comes after the others. -/
theorem repeatExec_succ {k : Nat} (h : repeatExec i k s = .next t) : repeatExec i (k + 1) s = exec i t := by
  induction k generalizing s with
  | zero =>
    cases h
    rw [repeatExec]
    cases exec i t <;> rfl
  | succ k ih =>
    rw [repeatExec] at h ⊢
    split at h
    next u hu => exact ih h
    next => cases h
    next => cases h

end

/-- The step at the `k`-th place of a loop of `vl` elements. -/
def place (vl : BitVec 7) (k : Nat) : BitVec 7 :=
  BitVec.ofNat 7 (k % vl.toNat)

/-- SVSTATE with both steps at `p`. -/
def atStep (v : Svstate) (p : BitVec 7) : Svstate :=
  { v with srcstep := p, dststep := p }

theorem atStep_of_steps_eq {v : Svstate} {p : BitVec 7} (hsrc : v.srcstep = p) (hdst : v.dststep = p) :
    atStep v p = v := by
  cases v
  cases hsrc
  cases hdst
  rfl

theorem place_toNat {vl : BitVec 7} {k : Nat} (hk : k < vl.toNat) : (place vl k).toNat = k := by
  rw [place, Nat.mod_eq_of_lt hk, BitVec.toNat_ofNat, Nat.mod_eq_of_lt (hk.trans vl.isLt)]

/-- The step by one or back to 0 of R116 goes to the next place of the loop. -/
theorem place_succ {vl : BitVec 7} {k : Nat} (hk : k < vl.toNat) :
    (if (place vl k).toNat + 1 = vl.toNat then 0 else place vl k + 1) = place vl (k + 1) := by
  rw [place_toNat hk]
  split
  next hlast =>
    rw [place, hlast, Nat.mod_self]
    rfl
  next hlast =>
    have hlt : k + 1 < vl.toNat := lt_of_le_of_ne hk hlast
    rw [place, place, Nat.mod_eq_of_lt hk, Nat.mod_eq_of_lt hlt, BitVec.ofNat_add]
    rfl

/-- The machine after `k` steps of a loop that started at `s`. -/
def LoopedTo (k : Nat) (s t : State) : Prop :=
  t.svstate = atStep s.svstate (place s.svstate.vl k) ∧ t.pc.toNat = s.pc.toNat + 4 * k

section
variable {rt : RegNum} {s t : State} {k : Nat}

/-- One more execution inside the loop (O30's closed form of a step). -/
theorem exec_svstepRc_loopedTo (h : LoopedTo k s t) (hk : k < s.svstate.vl.toNat)
    (hpc : s.pc.toNat + 4 * (k + 1) < 2 ^ 64) (hssub : s.svstate.ssubstep = 0) (hdsub : s.svstate.dsubstep = 0) :
    ∃ u, exec (.svstepRc rt 0 true) t = .next u ∧ LoopedTo (k + 1) s u ∧
      (u.cr0.eq = true ↔ k + 1 = s.svstate.vl.toNat) ∧ u.readGpr rt = 0 := by
  obtain ⟨hsv, hat⟩ := h
  have hsrc : t.svstate.srcstep.toNat = k := hsv ▸ place_toNat hk
  have hdst : t.svstate.dststep.toNat = k := hsv ▸ place_toNat hk
  have hvl : t.svstate.vl = s.svstate.vl := hsv ▸ rfl
  have hadv : CanAdvance t := by
    rw [CanAdvance]
    omega
  obtain ⟨-, u, hnext, ⟨hsv', hgpr, -, -, -, -, hpc'⟩, heq⟩ :=
    stepMovesEachSideByOne rt t hadv (by rwa [hsrc, hvl]) (by rwa [hdst, hvl]) (hsv ▸ hssub) (hsv ▸ hdsub)
  refine ⟨u, hnext, ⟨?_, ?_⟩, ?_, ?_⟩
  · rw [hsv', hsv]
    exact congrArg (atStep s.svstate) (place_succ hk)
  · rw [hpc', BitVec.toNat_add_of_lt hadv, hat]
    exact Nat.add_assoc _ _ _
  · rw [heq, hsrc, hdst, hvl, Bool.or_self, decide_eq_true_eq]
  · rw [hgpr, if_pos rfl]
    rfl

theorem repeatExec_svstepRc_loopedTo (hk : k ≤ s.svstate.vl.toNat) (hpc : s.pc.toNat + 4 * k < 2 ^ 64)
    (hsrc : s.svstate.srcstep = 0) (hdst : s.svstate.dststep = 0) (hssub : s.svstate.ssubstep = 0)
    (hdsub : s.svstate.dsubstep = 0) :
    ∃ t, repeatExec (.svstepRc rt 0 true) k s = .next t ∧ LoopedTo k s t := by
  induction k with
  | zero => exact ⟨s, rfl, (atStep_of_steps_eq hsrc hdst).symm, rfl⟩
  | succ k ih =>
    obtain ⟨t, hrun, ht⟩ := ih (by omega) (by omega)
    obtain ⟨u, hnext, hu, -, -⟩ := exec_svstepRc_loopedTo (rt := rt) ht hk hpc hssub hdsub
    exact ⟨u, (repeatExec_succ hrun).trans hnext, hu⟩

end

/-- Settles O40: the last of the `k` executions is one more inside the loop. -/
theorem repeatedStepsVisitEveryElementOnce : Obligations.RepeatedStepsVisitEveryElementOnce := by
  intro rt s k hpos hk hpc hsrc hdst hssub hdsub
  obtain ⟨k, rfl⟩ := Nat.exists_eq_succ_of_ne_zero (Nat.one_le_iff_ne_zero.1 hpos)
  obtain ⟨t, hrun, ht⟩ := repeatExec_svstepRc_loopedTo (rt := rt) (k := k) (by omega) (by omega) hsrc hdst hssub hdsub
  obtain ⟨u, hnext, ⟨hsv, -⟩, heq, hgpr⟩ := exec_svstepRc_loopedTo (rt := rt) ht hk hpc hssub hdsub
  exact ⟨u, (repeatExec_succ hrun).trans hnext, hsv, heq, hgpr⟩

/-! ### The mode bit (R36) -/

/-- SVSTATE with another vfirst. -/
def withVfirst (b : Bool) (v : Svstate) : Svstate :=
  { v with vfirst := b }

/-- The effect with another vfirst in its SVSTATE. -/
def StepEffect.withVfirst (b : Bool) (e : StepEffect) : StepEffect :=
  { e with svstate := Machine.withVfirst b e.svstate }

theorem takeStep_withVfirst {b : Bool} {v : Svstate} {e : StepEffect} (h : takeStep v = .ok e) :
    takeStep (withVfirst b v) = .ok (e.withVfirst b) := by
  obtain ⟨hdefined, rfl⟩ := (takeStep_eq_ok _ _).1 h
  exact (takeStep_eq_ok _ _).2 ⟨hdefined, rfl⟩

/-- Outside the REMAP enquiries the effect reads the step fields, the substeps and vl, never vfirst. -/
theorem stepEffect_withVfirst {svi : BitVec 7} {vf b : Bool} {s : State} {e : StepEffect}
    (hsvi : svi = 0 ∨ 5 ≤ svi.toNat) (h : stepEffect svi vf s = .ok e) :
    stepEffect svi vf (s.setSvstate (withVfirst b s.svstate)) = .ok (e.withVfirst b) := by
  have hremap : ∀ shape, stepMode svi ≠ .remap shape := by
    intro shape hmode
    obtain ⟨hlow, hhigh⟩ := stepMode_eq_remap hmode
    obtain rfl | hsvi := hsvi
    · exact absurd hlow (by decide)
    · omega
  unfold stepEffect at h ⊢
  cases hmode : stepMode svi with
  | reserved => rw [hmode] at h; cases h
  | remap shape => exact absurd hmode (hremap shape)
  | step =>
    rw [hmode] at h
    cases vf with
    | true => exact takeStep_withVfirst h
    | false => cases h; rfl
  | setPack | srcstep | dststep | ssubstep | dsubstep => rw [hmode] at h; cases h; rfl

theorem stepState_withVfirst (rc : Bool) (rt : RegNum) (e : StepEffect) (b : Bool) (s : State) :
    (stepState rc rt (e.withVfirst b) (s.setSvstate (withVfirst b s.svstate))).setPc (s.pc + 4) =
      ((stepState rc rt e s).setPc (s.pc + 4)).setSvstate (withVfirst b e.svstate) := by
  cases rc <;> rfl

theorem runSvstep_withVfirst {rc : Bool} {rt : RegNum} {svi : BitVec 7} {vf b : Bool} {s t : State}
    (hsvi : svi = 0 ∨ 5 ≤ svi.toNat) (h : runSvstep rc rt svi vf s = .next t) :
    runSvstep rc rt svi vf (s.setSvstate (withVfirst b s.svstate)) =
      .next (t.setSvstate (withVfirst b t.svstate)) := by
  obtain ⟨e, heffect, hadv, rfl⟩ := (runSvstep_eq_next ..).1 h
  refine (runSvstep_eq_next ..).2 ⟨_, stepEffect_withVfirst hsvi heffect, hadv, ?_⟩
  rw [State.setPc_svstate, stepState_svstate]
  exact (stepState_withVfirst rc rt e b s).symm

/-- Settles O41: another vfirst goes through the effect and the writes unread. -/
theorem svstepDoesNotReadVfirst : Obligations.SvstepDoesNotReadVfirst :=
  fun _ _ _ _ _ _ hsvi => ⟨runSvstep_withVfirst hsvi, runSvstep_withVfirst hsvi⟩

end Sys2Proof.Machine
end
